-- ==== Sys2Proof/Word.lean ====
section
/-! DEFINITION. The word types of AZDEC: word and character widths (spec/00_scope.md R6, spec/10_state.md R11, R21). -/

namespace Sys2Proof

/-- `CHARW`, the width of one output character (R6, R43). -/
abbrev charw : Nat := 8

/-- One output character (R19, R43). -/
abbrev Char8 := BitVec charw

/-- One element of the word scratch array DW: a `w`-bit word, stored in 12 bits (R21). -/
abbrev EccWord := BitVec 12

/-- `WIDTHS`, the legal ECC word widths (R6, R61). -/
inductive EccWidth where
  | w6
  | w8
  | w10
  | w12
  deriving DecidableEq, Repr

/-- The number of bits a width stands for. -/
def EccWidth.bits : EccWidth → Nat
  | .w6 => 6
  | .w8 => 8
  | .w10 => 10
  | .w12 => 12

/-- The six buffers (R21, R40); names which free value an unwritten element has. -/
inductive BufName where
  | raw
  | dw
  | cor
  | dst
  | out
  | msg
  deriving DecidableEq, Repr

end Sys2Proof
end

