-- ==== Sys2Proof/Config.lean ====
section
/-! DEFINITION. What the spec calls a parameter or leaves open (spec/00_scope.md R6): the parameters as one record the machine
takes, and the free values and the Reed-Solomon corrector as constants without a body. -/

namespace Sys2Proof

/-- The parameters of R6: the model takes them as arguments, in the field `State.params`, which no step changes (log 1). -/
structure Params where
  /-- `BYTE_WIDTH`, the symbol width under BYTE (R63, R200, U2) -/
  byteWidth : Nat
  /-- `RAW_CAP_BITS`, the capacity of RAW in bits -/
  rawCapBits : Nat
  /-- `WORD_CAP`, the capacity of DW in words -/
  wordCap : Nat
  /-- `COR_CAP_BITS`, the capacity of COR and of DST in bits -/
  corCapBits : Nat
  /-- `MSG_CAP`, the capacity of OUT and of MSG in characters -/
  msgCap : Nat
  /-- `LENW`, the width in bits of the length, count and capacity registers -/
  lenw : Nat
  deriving DecidableEq, Repr

/-- The values R6 gives the parameters. -/
def Params.standard : Params :=
  { byteWidth := 8, rawCapBits := 32768, wordCap := 4096, corCapBits := 32768, msgCap := 13107, lenw := 16 }

/-- What R6 requires of the parameters: `MSG_CAP` at least `floor(2 * COR_CAP_BITS / 5)`, `2^LENW` above both bit capacities. -/
abbrev Params.Legal (p : Params) : Prop :=
  2 * p.corCapBits / 5 ≤ p.msgCap ∧ p.rawCapBits < 2 ^ p.lenw ∧ p.corCapBits < 2 ^ p.lenw

/-- `MIXED_CTRL2_OFFSET` (R6, R153): the spec's 8. UNVERIFIED, unsafe if the real block differs (log 21). -/
def Config.mixedCtrl2Offset : Nat := 8

/-- The answer of the Reed-Solomon corrector for `m` data words of width `w` (R84, R86). Its type carries the three assumed
properties: `m` words (`RS_LEN`), each below `2^w` (`RS_RANGE`), a count of `LENW` bits (`RS_COUNT`). -/
inductive RsAnswer (lenw : Nat) (w : EccWidth) (m : Nat) where
  | ok (data : Fin m → BitVec w.bits) (count : BitVec lenw)
  | uncorrectable
  deriving Inhabited

/-- `RS` (R86): a total function of width, field constant, data words and parity words, of which nothing else is known; one
for each `LENW`, which fixes the width of its count. DEDUCED (R86), safe (log 2). -/
opaque Config.rs (lenw : Nat) (w : EccWidth) (g : BitVec 13) {m k : Nat} (data : Fin m → BitVec w.bits)
    (parity : Fin k → BitVec w.bits) : RsAnswer lenw w m

/-- The value of an unwritten bit of RAW, COR or DST, per hardware reset (R26, U13: "any value"). Free value, safe (log 3). -/
opaque Config.freeBit (buf : BufName) (epoch index : Nat) : Bool

/-- The value of an unwritten word of DW (R26, U13). Free value, safe (log 3). -/
opaque Config.freeWord (epoch index : Nat) : EccWord

/-- The value of an unwritten character of OUT or MSG (R26, U12, U13). Free value, safe (log 3). -/
opaque Config.freeChar (buf : BufName) (epoch index : Nat) : Char8

end Sys2Proof
end

