-- ==== Sys2Proof/Syntax.lean ====
section
/-! DEFINITION. The code words AZDEC interprets, whole: one constructor per mnemonic of spec/opcode_table.json (spec/30_encoding.md R68,
R62). An operand is the code word's own value (R65). -/

namespace Sys2Proof

/-- The six states of the automaton (R16, R110). -/
inductive Mode where
  | upper
  | lower
  | mixed
  | punct
  | digit
  | byte
  deriving DecidableEq, Repr

/-- An entry of a dispatch table, or a stripper word class. -/
inductive Instr where
  -- UPPER, format S5
  | uPS
  | uSP
  | uCH (v : BitVec 5)
  | uLL
  | uML
  | uDL
  | uBS
  -- LOWER, format S5
  | lPS
  | lSP
  | lCH (v : BitVec 5)
  | lUS
  | lML
  | lDL
  | lBS
  -- MIXED, format S5
  | mPS
  | mSP
  | mC1 (v : BitVec 5)
  | mC2 (v : BitVec 5)
  | mAT
  | mBSL
  | mG3 (v : BitVec 5)
  | mBAR
  | mTIL
  | mDEL
  | mLL
  | mUL
  | mPL
  | mBS
  -- PUNCT, format S5
  | pFLG
  | pCR
  | pCRLF
  | pDOTSP
  | pCOMSP
  | pCOLSP
  | pG1 (v : BitVec 5)
  | pG2 (v : BitVec 5)
  | pLBR
  | pRBR
  | pLCB
  | pRCB
  | pUL
  -- DIGIT, format S4
  | dPS
  | dSP
  | dCH (v : BitVec 4)
  | dCOM
  | dDOT
  | dUL
  | dUS
  -- BYTE, format S8
  | bANY (v : Nat)
  -- stripper words, format WP
  | stuff0 (w : EccWidth)
  | stuff1 (w : EccWidth)
  | pass (w : EccWidth) (v : EccWord)
  deriving DecidableEq, Repr

end Sys2Proof
end

