-- ==== Sys2Proof/WellFormed.lean ====
section
/-! DEFINITION. Which terms of `Instr` are code words: the value ranges of spec/30_encoding.md R68 and R62. -/

namespace Sys2Proof

/-- The value lies in the range of its table entry. -/
def inRange (lo hi v : Nat) : Bool := decide (lo ≤ v) && decide (v ≤ hi)

/-- A word of width `w` that is neither stuffed pattern (R62, R105). -/
def isPlainWord (w : EccWidth) (v : Nat) : Bool :=
  decide (v < 2 ^ w.bits) && decide (v ≠ 1) && decide (v ≠ 2 ^ w.bits - 2)

/-- Well-formedness of a code word where `BYTE_WIDTH` is `bw` (R68, R62). -/
def Instr.wf (bw : Nat) : Instr → Bool
  | .uCH v => inRange 2 27 v.toNat
  | .lCH v => inRange 2 27 v.toNat
  | .mC1 v => inRange 2 14 v.toNat
  | .mC2 v => inRange 15 19 v.toNat
  | .mG3 v => inRange 22 24 v.toNat
  | .pG1 v => inRange 6 20 v.toNat
  | .pG2 v => inRange 21 26 v.toNat
  | .dCH v => inRange 2 11 v.toNat
  | .pass w v => isPlainWord w v.toNat
  | .uPS | .uSP | .uLL | .uML | .uDL | .uBS => true
  | .lPS | .lSP | .lUS | .lML | .lDL | .lBS => true
  | .mPS | .mSP | .mAT | .mBSL | .mBAR | .mTIL | .mDEL | .mLL | .mUL | .mPL | .mBS => true
  | .pFLG | .pCR | .pCRLF | .pDOTSP | .pCOMSP | .pCOLSP | .pLBR | .pRBR | .pLCB | .pRCB | .pUL => true
  | .dPS | .dSP | .dCOM | .dDOT | .dUL | .dUS => true
  | .bANY v => decide (v < 2 ^ bw)
  | .stuff0 _ | .stuff1 _ => true

end Sys2Proof
end

