-- ==== Sys2Proof/Decode.lean ====
section
/-! DEFINITION. Code words to bits and back: the bit order of spec/20_memory.md R41, the symbol widths and tables of
spec/30_encoding.md R62 to R68, the decoder, the encoder and the host's view of the opcode table. -/

namespace Sys2Proof

/-! ### Bits of a fixed-width word, most significant first (R7, R41) -/

/-- The value of a bit string, first bit most significant (`MemRead`'s sum, R7). -/
def ofBits : List Bool → Nat
  | [] => 0
  | b :: bs => b.toNat * 2 ^ bs.length + ofBits bs

/-- `n` bits of `v`, most significant first (`MemWrite`'s bits, R7). -/
def toBits : Nat → Nat → List Bool
  | 0, _ => []
  | n + 1, v => v.testBit n :: toBits n v

/-! ### Widths -/

/-- `SYM_WIDTH` where `BYTE_WIDTH` is `bw` (R6, R63). -/
def symWidth (bw : Nat) : Mode → Nat
  | .upper => 5
  | .lower => 5
  | .mixed => 5
  | .punct => 5
  | .digit => 4
  | .byte => bw

/-- The legal widths of `WORD_BITS` (R61). -/
def EccWidth.ofBits? (n : Nat) : Option EccWidth :=
  if n = 6 then some .w6
  else if n = 8 then some .w8
  else if n = 10 then some .w10
  else if n = 12 then some .w12
  else none

/-! ### The tables of R68, by value -/

/-- UPPER (R130 to R137). -/
def decodeUpper (v : BitVec 5) : Instr :=
  if v = 0 then .uPS
  else if v = 1 then .uSP
  else if v ≤ 27 then .uCH v
  else if v = 28 then .uLL
  else if v = 29 then .uML
  else if v = 30 then .uDL
  else .uBS

/-- LOWER (R140 to R147). -/
def decodeLower (v : BitVec 5) : Instr :=
  if v = 0 then .lPS
  else if v = 1 then .lSP
  else if v ≤ 27 then .lCH v
  else if v = 28 then .lUS
  else if v = 29 then .lML
  else if v = 30 then .lDL
  else .lBS

/-- MIXED (R150 to R164). -/
def decodeMixed (v : BitVec 5) : Instr :=
  if v = 0 then .mPS
  else if v = 1 then .mSP
  else if v ≤ 14 then .mC1 v
  else if v ≤ 19 then .mC2 v
  else if v = 20 then .mAT
  else if v = 21 then .mBSL
  else if v ≤ 24 then .mG3 v
  else if v = 25 then .mBAR
  else if v = 26 then .mTIL
  else if v = 27 then .mDEL
  else if v = 28 then .mLL
  else if v = 29 then .mUL
  else if v = 30 then .mPL
  else .mBS

/-- PUNCT (R170 to R183). -/
def decodePunct (v : BitVec 5) : Instr :=
  if v = 0 then .pFLG
  else if v = 1 then .pCR
  else if v = 2 then .pCRLF
  else if v = 3 then .pDOTSP
  else if v = 4 then .pCOMSP
  else if v = 5 then .pCOLSP
  else if v ≤ 20 then .pG1 v
  else if v ≤ 26 then .pG2 v
  else if v = 27 then .pLBR
  else if v = 28 then .pRBR
  else if v = 29 then .pLCB
  else if v = 30 then .pRCB
  else .pUL

/-- DIGIT (R190 to R197). -/
def decodeDigit (v : BitVec 4) : Instr :=
  if v = 0 then .dPS
  else if v = 1 then .dSP
  else if v ≤ 11 then .dCH v
  else if v = 12 then .dCOM
  else if v = 13 then .dDOT
  else if v = 14 then .dUL
  else .dUS

/-- The symbol of value `v` read under mode `m` (R64, R67): total on the values of the mode's width. -/
def decodeSymbol (m : Mode) (v : Nat) : Instr :=
  match m with
  | .upper => decodeUpper (BitVec.ofNat 5 v)
  | .lower => decodeLower (BitVec.ofNat 5 v)
  | .mixed => decodeMixed (BitVec.ofNat 5 v)
  | .punct => decodePunct (BitVec.ofNat 5 v)
  | .digit => decodeDigit (BitVec.ofNat 4 v)
  | .byte => .bANY v

/-- The class of a stripper word of width `w` and value `v` (R62). -/
def decodeStuffed (w : EccWidth) (v : Nat) : Instr :=
  if v = 1 then .stuff0 w
  else if v = 2 ^ w.bits - 2 then .stuff1 w
  else .pass w (BitVec.ofNat 12 v)

/-! ### The decoder on bits -/

/-- What decides the format of the next read (R60): the mode of the Mode Decoder, or the stripper's word width. -/
inductive Ctx where
  | symbol (m : Mode)
  | word (bits : Nat)
  deriving DecidableEq, Repr

/-- How many bits the next code word has where `BYTE_WIDTH` is `bw` (R64). -/
def Ctx.width (bw : Nat) : Ctx → Nat
  | .symbol m => symWidth bw m
  | .word n => n

/-- Why a bit string gives no code word. -/
inductive DecodeError where
  /-- fewer bits remain than one code word (R111) -/
  | tooFewBits
  /-- a word width outside 6, 8, 10, 12 (R61, R70) -/
  | badWordBits
  deriving DecidableEq, Repr

/-- The first code word of a bit string and the bits after it, where `BYTE_WIDTH` is `bw`. -/
def decode (bw : Nat) (c : Ctx) (bits : List Bool) : Except DecodeError (Instr × List Bool) :=
  match c with
  | .symbol m =>
    if bits.length < symWidth bw m then .error .tooFewBits
    else .ok (decodeSymbol m (ofBits (bits.take (symWidth bw m))), bits.drop (symWidth bw m))
  | .word n =>
    match EccWidth.ofBits? n with
    | none => .error .badWordBits
    | some w =>
      if bits.length < n then .error .tooFewBits
      else .ok (decodeStuffed w (ofBits (bits.take n)), bits.drop n)

/-! ### The encoder -/

/-- The context a code word is read in (R60, R68). -/
def Instr.ctx : Instr → Ctx
  | .uPS | .uSP | .uCH _ | .uLL | .uML | .uDL | .uBS => .symbol .upper
  | .lPS | .lSP | .lCH _ | .lUS | .lML | .lDL | .lBS => .symbol .lower
  | .mPS | .mSP | .mC1 _ | .mC2 _ | .mAT | .mBSL | .mG3 _ => .symbol .mixed
  | .mBAR | .mTIL | .mDEL | .mLL | .mUL | .mPL | .mBS => .symbol .mixed
  | .pFLG | .pCR | .pCRLF | .pDOTSP | .pCOMSP | .pCOLSP | .pG1 _ | .pG2 _ => .symbol .punct
  | .pLBR | .pRBR | .pLCB | .pRCB | .pUL => .symbol .punct
  | .dPS | .dSP | .dCH _ | .dCOM | .dDOT | .dUL | .dUS => .symbol .digit
  | .bANY _ => .symbol .byte
  | .stuff0 w | .stuff1 w | .pass w _ => .word w.bits

/-- The value of a code word (R68, R62). -/
def encodeValue : Instr → Nat
  | .uPS => 0
  | .uSP => 1
  | .uCH v => v.toNat
  | .uLL => 28
  | .uML => 29
  | .uDL => 30
  | .uBS => 31
  | .lPS => 0
  | .lSP => 1
  | .lCH v => v.toNat
  | .lUS => 28
  | .lML => 29
  | .lDL => 30
  | .lBS => 31
  | .mPS => 0
  | .mSP => 1
  | .mC1 v => v.toNat
  | .mC2 v => v.toNat
  | .mAT => 20
  | .mBSL => 21
  | .mG3 v => v.toNat
  | .mBAR => 25
  | .mTIL => 26
  | .mDEL => 27
  | .mLL => 28
  | .mUL => 29
  | .mPL => 30
  | .mBS => 31
  | .pFLG => 0
  | .pCR => 1
  | .pCRLF => 2
  | .pDOTSP => 3
  | .pCOMSP => 4
  | .pCOLSP => 5
  | .pG1 v => v.toNat
  | .pG2 v => v.toNat
  | .pLBR => 27
  | .pRBR => 28
  | .pLCB => 29
  | .pRCB => 30
  | .pUL => 31
  | .dPS => 0
  | .dSP => 1
  | .dCH v => v.toNat
  | .dCOM => 12
  | .dDOT => 13
  | .dUL => 14
  | .dUS => 15
  | .bANY v => v
  | .stuff0 _ => 1
  | .stuff1 w => 2 ^ w.bits - 2
  | .pass _ v => v.toNat

/-- The bits of a code word, in buffer order, where `BYTE_WIDTH` is `bw` (R60, R71). -/
def encode (bw : Nat) (i : Instr) : List Bool := toBits (i.ctx.width bw) (encodeValue i)

/-- A listing assembled into its stream (R71). -/
def assemble (bw : Nat) (l : List Instr) : List Bool := l.flatMap (encode bw)

/-! ### The opcode table's words -/

/-- Which read a table word of `nbits` bits is taken as. A word alone does not say under which mode it is read (R64): 4, 5, 6, 10 and
12 bits fix the format; a byte below 32 is a symbol under UPPER, the mode of the first symbol of every decode; other bytes and
two-byte words are stripper words of the narrowest width that holds them. DESIGN CHOICE (log 10). -/
def tableCtx (nbits w : Nat) : Option Ctx :=
  if nbits = 4 then some (.symbol .digit)
  else if nbits = 5 then some (.symbol .upper)
  else if nbits = 6 then some (.word 6)
  else if nbits = 8 then some (if w < 32 then .symbol .upper else if w < 64 then .word 6 else .word 8)
  else if nbits = 10 then some (.word 10)
  else if nbits = 12 then some (.word 12)
  else if nbits = 16 then some (if w < 1024 then .word 10 else .word 12)
  else none

/-- The instruction the decoder reads from the opcode-table word `w` of `nbits` bits, at the table's `BYTE_WIDTH` (R69). -/
def decodeTableWord (nbits w : Nat) : Option Instr :=
  match tableCtx nbits w with
  | none => none
  | some c =>
    if w < 2 ^ c.width Params.standard.byteWidth then
      match decode Params.standard.byteWidth c (toBits (c.width Params.standard.byteWidth) w) with
      | .ok (i, _) => some i
      | .error _ => none
    else none

end Sys2Proof
end

