-- ==== Sys2Proof/Machine/State.lean ====
section
/-! DEFINITION. The state of AZDEC as plain data (spec/10_state.md), the reasons a step can stop, and the state after hardware reset. -/

namespace Sys2Proof.Machine

/-- A buffer: a list of (index, element) pairs (R21, R40). The canonical form is `Memory.wf`: strictly rising indices. An index that
is not listed has no value of its own; what reading it gives is said once, in `Machine/Operands.lean`. -/
abbrev Memory (α : Type) := List (Nat × α)

/-- The causes of R233. The codes are `Cause.code`. -/
inductive Cause where
  /-- success, or no decode yet -/
  | noCause
  /-- recoverable: the corrector reports failure (R234) -/
  | eccUncorrectable
  /-- recoverable: PUNCT value 0 (R235) -/
  | flgUnsupported
  /-- recoverable: a symbol read under BYTE (R236) -/
  | byteUnsupported
  /-- fatal: `WORD_BITS` not 6, 8, 10 or 12 (R237) -/
  | badWordBits
  /-- fatal: stripper input not a whole number of words (R237) -/
  | stripLength
  /-- fatal: `DATA_LAYERS` below 1 (R238) -/
  | badLayers
  /-- fatal: `RAW_LEN` differs from `CAP_BITS` (R238) -/
  | rawLength
  /-- fatal: the word counts do not fit (R238) -/
  | wordCounts
  /-- fatal: a buffer capacity is exceeded (R238) -/
  | capacity
  deriving DecidableEq, Repr

/-- `STATUS` (R13), a register of eight fields that fill its 12 bits; the word the host reads is `Status.word` (log 12). -/
structure Status where
  busy : Bool
  done : Bool
  ok : Bool
  fatal : Bool
  corValid : Bool
  msgValid : Bool
  cause : Cause
  stage : BitVec 2
  deriving DecidableEq, Repr

/-- The Marker registers the host writes (R11, numbers 0 to 5). Those of `LENW` bits are natural numbers, as R6 allows (log 13). -/
structure Descriptor where
  dataLayers : BitVec 8
  wordBits : BitVec 4
  msgWords : Nat
  capWords : Nat
  capBits : Nat
  rawLen : Nat
  deriving DecidableEq, Repr

/-- The Marker registers the block writes (R11, numbers 6 to 8), natural numbers as R6 allows (log 13). -/
structure Results where
  corLen : Nat
  totalErrs : Nat
  msgLen : Nat
  deriving DecidableEq, Repr

/-- The Mode Decoder's transient state (R15 to R20): `POS`, `MODE`, `REVERT`, `LATCHED`, `PRIOR`, `OUT_LEN`. -/
structure Decoder where
  pos : Nat
  mode : Mode
  revert : Option Mode
  latched : Bool
  prior : Mode
  outLen : Nat
  deriving DecidableEq, Repr

/-- Where the Decode Driver stands in the sequence of R211 (log 4): between decodes, before the checks, before SPLIT, CORRECT or
REPACK, before the stripper's length check, in its word loop, before the transient reset, in the symbol loop. -/
inductive Seq where
  | idle
  | checks
  | split
  | correct
  | repack
  | stripCheck
  | strip
  | modeInit
  | mode
  deriving DecidableEq, Repr

/-- One line handed to the trace sink (R127): mode, latch state, symbol value. -/
structure TraceLine where
  mode : Mode
  latched : Bool
  value : Nat
  deriving DecidableEq, Repr

/-- The register file by name (R11); the numbers are `Reg.number`. -/
inductive Reg where
  | dataLayers
  | wordBits
  | msgWords
  | capWords
  | capBits
  | rawLen
  | corLen
  | totalErrs
  | msgLen
  | status
  | ctrl
  deriving DecidableEq, Repr

/-- A register write the host can make (R11, access RW and WO), with its value (log 17). -/
inductive RegWrite where
  | dataLayers (v : BitVec 8)
  | wordBits (v : BitVec 4)
  | msgWords (v : Nat)
  | capWords (v : Nat)
  | capBits (v : Nat)
  | rawLen (v : Nat)
  | ctrl (v : BitVec 1)
  deriving DecidableEq, Repr

/-- A move of the outside world (R11, R21, R42, R52, R261). -/
inductive HostOp where
  | writeReg (w : RegWrite)
  | readReg (r : Reg)
  | writeRawByte (i : Nat) (b : BitVec 8)
  | readRawByte (i : Nat)
  | readCorByte (i : Nat)
  | readMsg (i : Nat)
  | hardReset
  deriving DecidableEq, Repr

/-- A host move and how many block steps pass before it (log 5). -/
structure HostMove where
  after : Nat
  op : HostOp
  deriving DecidableEq, Repr

/-- The machine. `params`: the parameters it was built with (R6; log 1). `desc`, `results`, `status`: the Marker and `STATUS` (R11, R13).
`md`: the transient state (R15 to R20). `raw` to `msg`: the six buffers (R21), `dstLen` the length of DST (R47). `trace`: the attached
trace sink, if any (R252). The rest is the model's own: `seq` and `stripPos` (log 4), `epoch` (log 3), `host` (log 5), `hostData`
(log 6). -/
structure State where
  params : Params
  desc : Descriptor
  results : Results
  status : Status
  md : Decoder
  raw : Memory Bool
  dw : Memory EccWord
  cor : Memory Bool
  dst : Memory Bool
  dstLen : Nat
  out : Memory Char8
  msg : Memory Char8
  trace : Option (List TraceLine)
  seq : Seq
  stripPos : Nat
  epoch : Nat
  host : List HostMove
  hostData : Nat
  deriving DecidableEq, Repr

/-- Why the machine stops with a fault. -/
inductive Fault where
  /-- Raised by `hostAccess` for an element index beyond the buffer's capacity (R21): no such element exists. Safe (log 8). -/
  | noSuchElement
  deriving DecidableEq, Repr

/-- Why a move has no meaning. -/
inductive Refusal where
  /-- Raised by an arm of `exec` for an instruction without a meaning; no arm does. Safe. -/
  | notModelled (mnemonic : String)
  /-- Raised by `hostAccess` for a host access while `BUSY` = 1, to which the spec gives no meaning (R52, R272). Safe (log 7). -/
  | hostAccessWhileBusy
  deriving DecidableEq, Repr

/-- What a step answers. -/
abbrev StepResult := Host.Outcome State Fault Refusal

/-- The state after hardware reset (R26, R261): all registers 0, `MODE` = UPPER, `REVERT` = none, `LATCHED` = 1, idle, buffers
unspecified (nothing listed), in a block built with the parameter values of R6 (log 1). `PRIOR`, `dstLen` and the model's own fields:
DESIGN CHOICE (log 9). -/
def State.reset : State where
  params := Params.standard
  desc := { dataLayers := 0, wordBits := 0, msgWords := 0, capWords := 0, capBits := 0, rawLen := 0 }
  results := { corLen := 0, totalErrs := 0, msgLen := 0 }
  status :=
    { busy := false, done := false, ok := false, fatal := false, corValid := false, msgValid := false,
      cause := .noCause, stage := 0 }
  md := { pos := 0, mode := .upper, revert := none, latched := true, prior := .upper, outLen := 0 }
  raw := []
  dw := []
  cor := []
  dst := []
  dstLen := 0
  out := []
  msg := []
  trace := none
  seq := .idle
  stripPos := 0
  epoch := 0
  host := []
  hostData := 0

end Sys2Proof.Machine
end

