-- ==== Sys2Proof/Machine/Flags.lean ====
section
/-! DEFINITION. Every flag computation: the fields of `STATUS` (spec/10_state.md R13, spec/49_decode_driver.md R212, R216,
spec/60_exceptions.md R231, R232), the cause and mode codes, and the `LATCHED` and `REVERT` rules of spec/42_mode_decoder_loop.md. -/

namespace Sys2Proof.Machine

/-- The numbers of R233. -/
def Cause.code : Cause → BitVec 4
  | .noCause => 0
  | .eccUncorrectable => 1
  | .flgUnsupported => 2
  | .byteUnsupported => 3
  | .badWordBits => 8
  | .stripLength => 9
  | .badLayers => 10
  | .rawLength => 11
  | .wordCounts => 12
  | .capacity => 13

/-- The fatal causes (R233, class column). -/
def Cause.isFatal : Cause → Bool
  | .noCause => false
  | .eccUncorrectable => false
  | .flgUnsupported => false
  | .byteUnsupported => false
  | .badWordBits => true
  | .stripLength => true
  | .badLayers => true
  | .rawLength => true
  | .wordCounts => true
  | .capacity => true

/-- The `MODE` encoding (R16). -/
def modeCode : Mode → BitVec 3
  | .upper => 0
  | .lower => 1
  | .mixed => 2
  | .punct => 3
  | .digit => 4
  | .byte => 5

/-- The 12-bit word the host reads from `STATUS` (R13): `STAGE` 11:10, `CAUSE` 9:6, then `MSG_VALID`, `COR_VALID`, `FATAL`, `OK`, `DONE`,
`BUSY` in bits 5 to 0. -/
def Status.word (st : Status) : BitVec 12 :=
  st.stage ++ st.cause.code ++ BitVec.ofBool st.msgValid ++ BitVec.ofBool st.corValid ++ BitVec.ofBool st.fatal ++
    BitVec.ofBool st.ok ++ BitVec.ofBool st.done ++ BitVec.ofBool st.busy

/-- START accepted (R212). -/
def Status.start (st : Status) : Status :=
  { st with busy := true, done := false, ok := false, cause := .noCause, stage := 0, corValid := false }

/-- `raise Fail(cause)` (R231). -/
def Status.fail (c : Cause) (st : Status) : Status :=
  { st with cause := c, ok := false, busy := false, done := true }

/-- `raise Fatal(cause)` (R232). -/
def Status.fatalStop (c : Cause) (st : Status) : Status :=
  { st with cause := c, ok := false, fatal := true, busy := false, done := true }

/-- A published message and success (R121, R216). -/
def Status.success (st : Status) : Status :=
  { st with msgValid := true, ok := true, cause := .noCause, stage := 3, busy := false, done := true }

/-- A correction step has succeeded (R89). -/
def Status.corrected (st : Status) : Status :=
  { st with corValid := true }

/-- The driver reaches stage `n` (R211). -/
def Status.atStage (n : BitVec 2) (st : Status) : Status :=
  { st with stage := n }

/-- START is accepted iff `BUSY` = 0 and `FATAL` = 0 (R14). -/
def Status.acceptsStart (st : Status) : Bool := !st.busy && !st.fatal

/-- `PRIOR <- MODE; LATCHED <- 1` (R113). -/
def Decoder.begin (d : Decoder) : Decoder :=
  { d with prior := d.mode, latched := true }

/-- `MODE <- m` (R116). -/
def Decoder.latch (m : Mode) (d : Decoder) : Decoder :=
  { d with mode := m }

/-- `MODE <- m; LATCHED <- 0` (R117). -/
def Decoder.shift (m : Mode) (d : Decoder) : Decoder :=
  { d with mode := m, latched := false }

/-- `if REVERT != none: MODE <- REVERT` (R118). -/
def Decoder.applyRevert (d : Decoder) : Decoder :=
  match d.revert with
  | some m => { d with mode := m }
  | none => d

/-- `REVERT <- (if LATCHED = 1 then none else PRIOR)` (R119). -/
def Decoder.reschedule (d : Decoder) : Decoder :=
  { d with revert := if d.latched then none else some d.prior }

/-- The initial state of the automaton (R24, R129); `PRIOR` is not named there and is kept. -/
def Decoder.restart (d : Decoder) : Decoder :=
  { d with pos := 0, mode := .upper, revert := none, latched := true, outLen := 0 }

end Sys2Proof.Machine
end

