-- ==== Sys2Proof/Machine/Ops.lean ====
section
/-! DEFINITION. The named operations over buffers and state: `MemRead`, `MemWrite`, `Append` (spec/00_scope.md R7), raising a failure or a
fatal stop and accepting START (spec/60_exceptions.md R231, R232, spec/49_decode_driver.md R212), and the processing of one symbol
(spec/42_mode_decoder_loop.md R113 to R120). -/

namespace Sys2Proof.Machine

/-! ### Buffers -/

/-- The value listed at index `i`, if any. -/
def Memory.read {α : Type} : Memory α → Nat → Option α
  | [], _ => none
  | (j, a) :: rest, i => if j = i then some a else Memory.read rest i

/-- `B[i] <- a`, keeping the indices strictly rising. -/
def Memory.write {α : Type} : Memory α → Nat → α → Memory α
  | [], i, a => [(i, a)]
  | (j, b) :: rest, i, a =>
    if i < j then (i, a) :: (j, b) :: rest
    else if i = j then (i, a) :: rest
    else (j, b) :: Memory.write rest i a

/-- Every listed index is above `lo`, and they rise strictly. -/
def Memory.risingFrom {α : Type} : Nat → Memory α → Bool
  | _, [] => true
  | lo, (j, _) :: rest => decide (lo < j) && Memory.risingFrom j rest

/-- The canonical form: strictly rising indices. No entry can equal what an unlisted index reads as, since that has no value. -/
def Memory.wf {α : Type} : Memory α → Bool
  | [] => true
  | (j, _) :: rest => Memory.risingFrom j rest

/-- Every listed index lies below `cap`. -/
def Memory.below {α : Type} (cap : Nat) (b : Memory α) : Bool :=
  b.all fun e => decide (e.1 < cap)

/-- The `n` bits from bit `p` of a bit buffer given by its reading function. -/
def readBits (get : Nat → Bool) : Nat → Nat → List Bool
  | _, 0 => []
  | p, n + 1 => get p :: readBits get (p + 1) n

/-- `MemRead(B.p, n)` (R7). -/
def memRead (get : Nat → Bool) (p n : Nat) : Nat := ofBits (readBits get p n)

/-- `MemWrite(B.p, n, v)` (R7). -/
def memWrite (b : Memory Bool) (p : Nat) : Nat → Nat → Memory Bool
  | 0, _ => b
  | n + 1, v => memWrite (Memory.write b p (v.testBit n)) (p + 1) n v

/-- `for i in 0 .. n-1: B[i] <- f i`, in increasing `i`. -/
def writeFrom {α : Type} (f : Nat → α) : Nat → Memory α → Memory α
  | 0, b => b
  | n + 1, b => Memory.write (writeFrom f n b) n (f n)

/-! ### How a decode ends early, and how the next one begins -/

/-- `raise Fail(cause)` (R231, R240): `STATUS` as there, the block idle, everything else kept. -/
def raiseFail (c : Cause) (s : State) : State :=
  { s with status := s.status.fail c, seq := .idle }

/-- `raise Fatal(cause)` (R232, R241): `STATUS` as there, the block idle, everything else kept. -/
def raiseFatal (c : Cause) (s : State) : State :=
  { s with status := s.status.fatalStop c, seq := .idle }

/-- Accepting START (R212). There is no handler and no return instruction; after a failure the next START is the way back (R243). -/
def acceptStart (s : State) : State :=
  { s with status := s.status.start, seq := .checks }

/-! ### One symbol -/

/-- `PRIOR <- MODE; LATCHED <- 1` (R113). -/
def beginSymbol (s : State) : State := { s with md := s.md.begin }

/-- `OUT[OUT_LEN] <- c; OUT_LEN <- OUT_LEN + 1` (R115). -/
def appendChar (c : Char8) (s : State) : State :=
  { s with out := s.out.write s.md.outLen c, md := { s.md with outLen := s.md.outLen + 1 } }

/-- `Latch(m)` (R116). -/
def latchTo (m : Mode) (s : State) : State := { s with md := s.md.latch m }

/-- `Shift(m)` (R117). -/
def shiftTo (m : Mode) (s : State) : State := { s with md := s.md.shift m }

/-- Hand one line to the trace sink, if one is attached (R127, R252). -/
def traceSymbol (v : Nat) (s : State) : State :=
  { s with trace := s.trace.map fun l => l ++ [{ mode := s.md.prior, latched := s.md.latched, value := v }] }

/-- Steps 4 and 5 and the trace (R118, R119, R122). -/
def endSymbol (v : Nat) (s : State) : State :=
  traceSymbol v { s with md := s.md.applyRevert.reschedule }

/-- The tagged result of a dispatch (R73, R114). -/
inductive Action where
  | appendChars (c1 : Char8) (c2 : Option Char8)
  | latch (m : Mode)
  | shift (m : Mode)
  | failSym (c : Cause)
  deriving DecidableEq, Repr

/-- `AppendChars(c1[, c2])`, `c1` first (R115). -/
def appendChars (c1 : Char8) (c2 : Option Char8) (s : State) : State :=
  match c2 with
  | none => appendChar c1 s
  | some c => appendChar c (appendChar c1 s)

/-- One symbol of value `v` with dispatch result `a` (R113 to R120, R122): a failing dispatch raises at once, any other is followed by
the revert, the recomputation and the trace. -/
def runSymbol (v : Nat) (a : Action) (s : State) : StepResult :=
  match a with
  | .appendChars c1 c2 => .next (endSymbol v (appendChars c1 c2 (beginSymbol s)))
  | .latch m => .next (endSymbol v (latchTo m (beginSymbol s)))
  | .shift m => .next (endSymbol v (shiftTo m (beginSymbol s)))
  | .failSym c => .next (raiseFail c (beginSymbol s))

/-! ### One stripper word -/

/-- `Append(DST, n, v)` (R7, R102). -/
def appendBits (n v : Nat) (s : State) : State :=
  { s with dst := memWrite s.dst s.dstLen n v, dstLen := s.dstLen + n }

end Sys2Proof.Machine
end

