-- ==== Sys2Proof/Machine/Operands.lean ====
section
/-! DEFINITION. Every operand form: what reading an element of a buffer gives, the operand values of the formats W, WP, S5, S4, S8
(spec/30_encoding.md R60 to R65), the character formulas (R65, R72) and the Galois-field constants (R66). -/

namespace Sys2Proof.Machine

/-! ### Reading an element (R26, U13: an element nothing has written since reset may have any value; log 3) -/

/-- Bit `i` of RAW. -/
def State.rawBit (s : State) (i : Nat) : Bool := (s.raw.read i).getD (Config.freeBit .raw s.epoch i)

/-- Word `i` of DW. -/
def State.dwWord (s : State) (i : Nat) : EccWord := (s.dw.read i).getD (Config.freeWord s.epoch i)

/-- Bit `i` of COR. -/
def State.corBit (s : State) (i : Nat) : Bool := (s.cor.read i).getD (Config.freeBit .cor s.epoch i)

/-- Bit `i` of DST. -/
def State.dstBit (s : State) (i : Nat) : Bool := (s.dst.read i).getD (Config.freeBit .dst s.epoch i)

/-- Character `i` of OUT. -/
def State.outChar (s : State) (i : Nat) : Char8 := (s.out.read i).getD (Config.freeChar .out s.epoch i)

/-- Character `i` of MSG. -/
def State.msgChar (s : State) (i : Nat) : Char8 := (s.msg.read i).getD (Config.freeChar .msg s.epoch i)

/-- How many bit positions the bytes of a buffer of `n` bits have: `8 * ceil(n / 8)` (R42). -/
def wholeBytes (n : Nat) : Nat := 8 * ((n + 7) / 8)

/-! ### Code words as operands -/

/-- Format W: ECC word `i` of RAW (R45, R61, R82). -/
def State.rawWord (s : State) (w : EccWidth) (i : Nat) : Nat := memRead s.rawBit (i * w.bits) w.bits

/-- Format WP: word `k` of COR (R46, R62, R102). -/
def State.corWord (s : State) (w : EccWidth) (k : Nat) : Nat := memRead s.corBit (k * w.bits) w.bits

/-- Formats S5, S4, S8: the next symbol, `MemRead(DST.POS, SYM_WIDTH(MODE))` (R63, R112). -/
def State.symbolValue (s : State) : Nat := memRead s.dstBit s.md.pos (symWidth s.params.byteWidth s.md.mode)

/-- `len(DST) - POS`, the bits that remain (R111). -/
def State.bitsLeft (s : State) : Nat := s.dstLen - s.md.pos

/-- The payload of a stuffed word of value `v`: `v >> 1` (R62, R65). -/
def stuffedPayload (v : Nat) : Nat := v >>> 1

/-! ### Character formulas -/

/-- `char('A' + (v - 2))` = `char(v + 63)` (R132). -/
def charUpper (v : BitVec 5) : Char8 := v.setWidth charw + 63

/-- `char('a' + (v - 2))` = `char(v + 95)` (R142). -/
def charLower (v : BitVec 5) : Char8 := v.setWidth charw + 95

/-- `char(v - 1)` (R152). -/
def charCtrl1 (v : BitVec 5) : Char8 := v.setWidth charw - 1

/-- `char(v + MIXED_CTRL2_OFFSET)` (R153). -/
def charCtrl2 (v : BitVec 5) : Char8 := v.setWidth charw + BitVec.ofNat charw Config.mixedCtrl2Offset

/-- `char(v + 72)` (R156). -/
def charMixed3 (v : BitVec 5) : Char8 := v.setWidth charw + 72

/-- `char(v + 27)` (R176). -/
def charPunct1 (v : BitVec 5) : Char8 := v.setWidth charw + 27

/-- `char(v + 37)` (R177). -/
def charPunct2 (v : BitVec 5) : Char8 := v.setWidth charw + 37

/-- `char('0' + (v - 2))` = `char(v + 46)` (R192). -/
def charDigit (v : BitVec 4) : Char8 := v.setWidth charw + 46

/-! ### The collaborator's constant -/

/-- `GF_CONST(w)` (R66, R83). -/
def gfConst : EccWidth → BitVec 13
  | .w6 => 67
  | .w8 => 301
  | .w10 => 1033
  | .w12 => 4201

end Sys2Proof.Machine
end

