-- ==== Sys2Proof/Machine/Byte.lean ====
section
/-! DEFINITION. The BYTE entries (spec/48_mode_byte.md). Each is one symbol of its value with its dispatch result, run by `runSymbol`
(spec/42_mode_decoder_loop.md R113 to R120). -/

namespace Sys2Proof.Machine

/-- B.ANY: no dispatch table: the decode fails (R200). -/
def execBANY (v : Nat) (s : State) : StepResult := runSymbol v (.failSym .byteUnsupported) s

end Sys2Proof.Machine
end

