-- ==== Sys2Proof/Machine/Digit.lean ====
section
/-! DEFINITION. The DIGIT entries (spec/47_mode_digit.md). Each is one symbol of its value with its dispatch result, run by `runSymbol`
(spec/42_mode_decoder_loop.md R113 to R120). -/

namespace Sys2Proof.Machine

/-- D.PS: shift to PUNCT (R190). -/
def execDPS (s : State) : StepResult := runSymbol 0 (.shift .punct) s

/-- D.SP: append a space (R191). -/
def execDSP (s : State) : StepResult := runSymbol 1 (.appendChars 32 none) s

/-- D.CH: append a decimal digit (R192). -/
def execDCH (v : BitVec 4) (s : State) : StepResult := runSymbol v.toNat (.appendChars (charDigit v) none) s

/-- D.COM: append a comma (R193). -/
def execDCOM (s : State) : StepResult := runSymbol 12 (.appendChars 44 none) s

/-- D.DOT: append a full stop (R194). -/
def execDDOT (s : State) : StepResult := runSymbol 13 (.appendChars 46 none) s

/-- D.UL: latch to UPPER (R195). -/
def execDUL (s : State) : StepResult := runSymbol 14 (.latch .upper) s

/-- D.US: shift to UPPER (R196). -/
def execDUS (s : State) : StepResult := runSymbol 15 (.shift .upper) s

end Sys2Proof.Machine
end

