-- ==== Sys2Proof/Machine/Lower.lean ====
section
/-! DEFINITION. The LOWER entries (spec/44_mode_lower.md). Each is one symbol of its value with its dispatch result, run by `runSymbol`
(spec/42_mode_decoder_loop.md R113 to R120). -/

namespace Sys2Proof.Machine

/-- L.PS: shift to PUNCT (R140). -/
def execLPS (s : State) : StepResult := runSymbol 0 (.shift .punct) s

/-- L.SP: append a space (R141). -/
def execLSP (s : State) : StepResult := runSymbol 1 (.appendChars 32 none) s

/-- L.CH: append a lower-case letter (R142). -/
def execLCH (v : BitVec 5) (s : State) : StepResult := runSymbol v.toNat (.appendChars (charLower v) none) s

/-- L.US: shift to UPPER (R143). -/
def execLUS (s : State) : StepResult := runSymbol 28 (.shift .upper) s

/-- L.ML: latch to MIXED (R144). -/
def execLML (s : State) : StepResult := runSymbol 29 (.latch .mixed) s

/-- L.DL: latch to DIGIT (R145). -/
def execLDL (s : State) : StepResult := runSymbol 30 (.latch .digit) s

/-- L.BS: shift to BYTE (R146). -/
def execLBS (s : State) : StepResult := runSymbol 31 (.shift .byte) s

end Sys2Proof.Machine
end

