-- ==== Sys2Proof/Machine/Mixed.lean ====
section
/-! DEFINITION. The MIXED entries (spec/45_mode_mixed.md). Each is one symbol of its value with its dispatch result, run by `runSymbol`
(spec/42_mode_decoder_loop.md R113 to R120). -/

namespace Sys2Proof.Machine

/-- M.PS: shift to PUNCT (R150). -/
def execMPS (s : State) : StepResult := runSymbol 0 (.shift .punct) s

/-- M.SP: append a space (R151). -/
def execMSP (s : State) : StepResult := runSymbol 1 (.appendChars 32 none) s

/-- M.C1: append a control character (R152). -/
def execMC1 (v : BitVec 5) (s : State) : StepResult := runSymbol v.toNat (.appendChars (charCtrl1 v) none) s

/-- M.C2: append a control character, offset `MIXED_CTRL2_OFFSET` (R153). -/
def execMC2 (v : BitVec 5) (s : State) : StepResult := runSymbol v.toNat (.appendChars (charCtrl2 v) none) s

/-- M.AT: append the at sign (R154). -/
def execMAT (s : State) : StepResult := runSymbol 20 (.appendChars 64 none) s

/-- M.BSL: append one backslash (R155). -/
def execMBSL (s : State) : StepResult := runSymbol 21 (.appendChars 92 none) s

/-- M.G3: append circumflex, underscore or grave accent (R156). -/
def execMG3 (v : BitVec 5) (s : State) : StepResult := runSymbol v.toNat (.appendChars (charMixed3 v) none) s

/-- M.BAR: append a vertical bar (R157). -/
def execMBAR (s : State) : StepResult := runSymbol 25 (.appendChars 124 none) s

/-- M.TIL: append a tilde (R158). -/
def execMTIL (s : State) : StepResult := runSymbol 26 (.appendChars 126 none) s

/-- M.DEL: append the delete character (R159). -/
def execMDEL (s : State) : StepResult := runSymbol 27 (.appendChars 127 none) s

/-- M.LL: latch to LOWER (R160). -/
def execMLL (s : State) : StepResult := runSymbol 28 (.latch .lower) s

/-- M.UL: latch to UPPER (R161). -/
def execMUL (s : State) : StepResult := runSymbol 29 (.latch .upper) s

/-- M.PL: latch to PUNCT (R162). -/
def execMPL (s : State) : StepResult := runSymbol 30 (.latch .punct) s

/-- M.BS: shift to BYTE (R163). -/
def execMBS (s : State) : StepResult := runSymbol 31 (.shift .byte) s

end Sys2Proof.Machine
end

