-- ==== Sys2Proof/Machine/Punct.lean ====
section
/-! DEFINITION. The PUNCT entries (spec/46_mode_punct.md). Each is one symbol of its value with its dispatch result, run by `runSymbol`
(spec/42_mode_decoder_loop.md R113 to R120). -/

namespace Sys2Proof.Machine

/-- P.FLG: the function code FLG(n): the decode fails (R170). -/
def execPFLG (s : State) : StepResult := runSymbol 0 (.failSym .flgUnsupported) s

/-- P.CR: append a carriage return (R171). -/
def execPCR (s : State) : StepResult := runSymbol 1 (.appendChars 13 none) s

/-- P.CRLF: append carriage return, line feed (R172). -/
def execPCRLF (s : State) : StepResult := runSymbol 2 (.appendChars 13 (some 10)) s

/-- P.DOTSP: append full stop, space (R173). -/
def execPDOTSP (s : State) : StepResult := runSymbol 3 (.appendChars 46 (some 32)) s

/-- P.COMSP: append comma, space (R174). -/
def execPCOMSP (s : State) : StepResult := runSymbol 4 (.appendChars 44 (some 32)) s

/-- P.COLSP: append colon, space (R175). -/
def execPCOLSP (s : State) : StepResult := runSymbol 5 (.appendChars 58 (some 32)) s

/-- P.G1: append one of code points 33 to 47 (R176). -/
def execPG1 (v : BitVec 5) (s : State) : StepResult := runSymbol v.toNat (.appendChars (charPunct1 v) none) s

/-- P.G2: append one of code points 58 to 63 (R177). -/
def execPG2 (v : BitVec 5) (s : State) : StepResult := runSymbol v.toNat (.appendChars (charPunct2 v) none) s

/-- P.LBR: append a left bracket (R178). -/
def execPLBR (s : State) : StepResult := runSymbol 27 (.appendChars 91 none) s

/-- P.RBR: append a right bracket (R179). -/
def execPRBR (s : State) : StepResult := runSymbol 28 (.appendChars 93 none) s

/-- P.LCB: append a left curly bracket (R180). -/
def execPLCB (s : State) : StepResult := runSymbol 29 (.appendChars 123 none) s

/-- P.RCB: append a right curly bracket (R181). -/
def execPRCB (s : State) : StepResult := runSymbol 30 (.appendChars 125 none) s

/-- P.UL: latch to UPPER (R182). -/
def execPUL (s : State) : StepResult := runSymbol 31 (.latch .upper) s

end Sys2Proof.Machine
end

