-- ==== Sys2Proof/Machine/Strip.lean ====
section
/-! DEFINITION. The stripper's word classes (spec/41_padding_stripper.md R103 to R105). Each appends bits to DST. -/

namespace Sys2Proof.Machine

/-- STUFF0: a word of value 1; `w - 1` bits of `v >> 1` (R103). -/
def execStuff0 (w : EccWidth) (s : State) : StepResult :=
  .next (appendBits (w.bits - 1) (stuffedPayload 1) s)

/-- STUFF1: a word of value `2^w - 2`; `w - 1` bits of `v >> 1` (R104). -/
def execStuff1 (w : EccWidth) (s : State) : StepResult :=
  .next (appendBits (w.bits - 1) (stuffedPayload (2 ^ w.bits - 2)) s)

/-- PASS: any other word, all `w` bits (R105). -/
def execPass (w : EccWidth) (v : EccWord) (s : State) : StepResult :=
  .next (appendBits w.bits v.toNat s)

end Sys2Proof.Machine
end

