-- ==== Sys2Proof/Machine/Upper.lean ====
section
/-! DEFINITION. The UPPER entries (spec/43_mode_upper.md). Each is one symbol of its value with its dispatch result, run by `runSymbol`
(spec/42_mode_decoder_loop.md R113 to R120). -/

namespace Sys2Proof.Machine

/-- U.PS: shift to PUNCT (R130). -/
def execUPS (s : State) : StepResult := runSymbol 0 (.shift .punct) s

/-- U.SP: append a space (R131). -/
def execUSP (s : State) : StepResult := runSymbol 1 (.appendChars 32 none) s

/-- U.CH: append an upper-case letter (R132). -/
def execUCH (v : BitVec 5) (s : State) : StepResult := runSymbol v.toNat (.appendChars (charUpper v) none) s

/-- U.LL: latch to LOWER (R133). -/
def execULL (s : State) : StepResult := runSymbol 28 (.latch .lower) s

/-- U.ML: latch to MIXED (R134). -/
def execUML (s : State) : StepResult := runSymbol 29 (.latch .mixed) s

/-- U.DL: latch to DIGIT (R135). -/
def execUDL (s : State) : StepResult := runSymbol 30 (.latch .digit) s

/-- U.BS: shift to BYTE (R136). -/
def execUBS (s : State) : StepResult := runSymbol 31 (.shift .byte) s

end Sys2Proof.Machine
end

