-- ==== Sys2Proof/Machine/Dispatch.lean ====
section
/-! DEFINITION. One arm per code word: its meaning. -/

namespace Sys2Proof.Machine

/-- The meaning of a code word (spec/30_encoding.md R67, R68, R62). -/
def exec (i : Instr) (s : State) : Host.Outcome State Fault Refusal :=
  match i with
  | .uPS => Sys2Proof.Machine.execUPS s
  | .uSP => Sys2Proof.Machine.execUSP s
  | .uCH v => Sys2Proof.Machine.execUCH v s
  | .uLL => Sys2Proof.Machine.execULL s
  | .uML => Sys2Proof.Machine.execUML s
  | .uDL => Sys2Proof.Machine.execUDL s
  | .uBS => Sys2Proof.Machine.execUBS s
  | .lPS => Sys2Proof.Machine.execLPS s
  | .lSP => Sys2Proof.Machine.execLSP s
  | .lCH v => Sys2Proof.Machine.execLCH v s
  | .lUS => Sys2Proof.Machine.execLUS s
  | .lML => Sys2Proof.Machine.execLML s
  | .lDL => Sys2Proof.Machine.execLDL s
  | .lBS => Sys2Proof.Machine.execLBS s
  | .mPS => Sys2Proof.Machine.execMPS s
  | .mSP => Sys2Proof.Machine.execMSP s
  | .mC1 v => Sys2Proof.Machine.execMC1 v s
  | .mC2 v => Sys2Proof.Machine.execMC2 v s
  | .mAT => Sys2Proof.Machine.execMAT s
  | .mBSL => Sys2Proof.Machine.execMBSL s
  | .mG3 v => Sys2Proof.Machine.execMG3 v s
  | .mBAR => Sys2Proof.Machine.execMBAR s
  | .mTIL => Sys2Proof.Machine.execMTIL s
  | .mDEL => Sys2Proof.Machine.execMDEL s
  | .mLL => Sys2Proof.Machine.execMLL s
  | .mUL => Sys2Proof.Machine.execMUL s
  | .mPL => Sys2Proof.Machine.execMPL s
  | .mBS => Sys2Proof.Machine.execMBS s
  | .pFLG => Sys2Proof.Machine.execPFLG s
  | .pCR => Sys2Proof.Machine.execPCR s
  | .pCRLF => Sys2Proof.Machine.execPCRLF s
  | .pDOTSP => Sys2Proof.Machine.execPDOTSP s
  | .pCOMSP => Sys2Proof.Machine.execPCOMSP s
  | .pCOLSP => Sys2Proof.Machine.execPCOLSP s
  | .pG1 v => Sys2Proof.Machine.execPG1 v s
  | .pG2 v => Sys2Proof.Machine.execPG2 v s
  | .pLBR => Sys2Proof.Machine.execPLBR s
  | .pRBR => Sys2Proof.Machine.execPRBR s
  | .pLCB => Sys2Proof.Machine.execPLCB s
  | .pRCB => Sys2Proof.Machine.execPRCB s
  | .pUL => Sys2Proof.Machine.execPUL s
  | .dPS => Sys2Proof.Machine.execDPS s
  | .dSP => Sys2Proof.Machine.execDSP s
  | .dCH v => Sys2Proof.Machine.execDCH v s
  | .dCOM => Sys2Proof.Machine.execDCOM s
  | .dDOT => Sys2Proof.Machine.execDDOT s
  | .dUL => Sys2Proof.Machine.execDUL s
  | .dUS => Sys2Proof.Machine.execDUS s
  | .bANY v => Sys2Proof.Machine.execBANY v s
  | .stuff0 w => Sys2Proof.Machine.execStuff0 w s
  | .stuff1 w => Sys2Proof.Machine.execStuff1 w s
  | .pass w v => Sys2Proof.Machine.execPass w v s

end Sys2Proof.Machine
end

