-- ==== Sys2Proof/Machine/Splitter.lean ====
section
/-! DEFINITION. The Word Splitter and the Reed-Solomon driver: SPLIT, CORRECT, REPACK (spec/40_word_splitter_ecc.md R80 to R92). -/

namespace Sys2Proof.Machine

/-- `m = MSG_WORDS` (R82). -/
def State.dataCount (s : State) : Nat := s.desc.msgWords

/-- `k = CAP_WORDS - MSG_WORDS`, the parity word count (R82). -/
def State.parityCount (s : State) : Nat := s.desc.capWords - s.desc.msgWords

/-- SPLIT (R82): `DW[i] <- MemRead(RAW.(i*w), w)` for every `i` below `CAP_WORDS`. -/
def splitStage (w : EccWidth) (s : State) : State :=
  { s with
    dw := writeFrom (fun i => BitVec.ofNat 12 (s.rawWord w i)) s.desc.capWords s.dw
    seq := .correct }

/-- The data words of the request, `DW[0 .. m-1]` (R82, R84). -/
def rsData (w : EccWidth) (s : State) : Fin s.dataCount → BitVec w.bits :=
  fun i => (s.dwWord i.val).setWidth w.bits

/-- The parity words of the request, `DW[m .. n-1]` (R82, R84). -/
def rsParity (w : EccWidth) (s : State) : Fin s.parityCount → BitVec w.bits :=
  fun j => (s.dwWord (s.dataCount + j.val)).setWidth w.bits

/-- The collaborator's answer to the one request of this decode (R84 to R86). -/
def rsAnswer (w : EccWidth) (s : State) : RsAnswer s.params.lenw w s.dataCount :=
  Config.rs s.params.lenw w (gfConst w) (rsData w s) (rsParity w s)

/-- Taking the answer (R85): the corrected words into DW and the count into `TOTAL_ERRS`, or `raise Fail(ECC_UNCORRECTABLE)`. -/
def takeAnswer {n : Nat} {w : EccWidth} {m : Nat} (a : RsAnswer n w m) (s : State) : State :=
  match a with
  | .ok data count =>
    { s with
      dw := writeFrom (fun i => if h : i < m then (data ⟨i, h⟩).setWidth 12 else 0) m s.dw
      results := { s.results with totalErrs := count.toNat }
      seq := .repack }
  | .uncorrectable => raiseFail .eccUncorrectable s

/-- CORRECT (R85): one call, its answer taken. -/
def correctStage (w : EccWidth) (s : State) : State := takeAnswer (rsAnswer w s) s

/-- `for i in 0 .. m-1: MemWrite(COR.(i*w), w, DW[i])` (R89). -/
def repackWords (w : EccWidth) (f : Nat → EccWord) : Nat → Memory Bool → Memory Bool
  | 0, b => b
  | m + 1, b => memWrite (repackWords w f m b) (m * w.bits) w.bits (f m).toNat

/-- How many bit positions of COR's last byte stay unused (R42). -/
def padCount (len : Nat) : Nat := (8 - len % 8) % 8

/-- REPACK (R89): the data words into COR, the unused bits of the last byte written 0 (R42), `COR_LEN`, `COR_VALID`; stage 2 begins
(R211). -/
def repackStage (w : EccWidth) (s : State) : State :=
  { s with
    cor := memWrite (repackWords w s.dwWord s.dataCount s.cor) (s.dataCount * w.bits) (padCount (s.dataCount * w.bits)) 0
    results := { s.results with corLen := s.dataCount * w.bits }
    status := s.status.corrected.atStage 2
    seq := .stripCheck }

end Sys2Proof.Machine
end

