-- ==== Sys2Proof/Machine/Driver.lean ====
section
/-! DEFINITION. The Decode Driver (spec/49_decode_driver.md R211 to R216): the checks, the stage boundaries, the two loops that fetch and
run code words, the finish, and one step of the block. -/

namespace Sys2Proof.Machine

/-- The first of the six checks that a descriptor fails in a block with parameters `p` (R213); products are natural numbers. -/
def firstViolation (p : Params) (d : Descriptor) : Option Cause :=
  if EccWidth.ofBits? d.wordBits.toNat = none then some .badWordBits
  else if d.dataLayers.toNat < 1 then some .badLayers
  else if d.rawLen ≠ d.capBits then some .rawLength
  else if d.msgWords > d.capWords then some .wordCounts
  else if d.capWords * d.wordBits.toNat > d.capBits then some .wordCounts
  else if d.capBits > p.rawCapBits ∨ d.capWords > p.wordCap ∨
      d.msgWords * d.wordBits.toNat > p.corCapBits then some .capacity
  else none

/-- `Checks()` (R213); when all pass, stage 1 begins (R211). -/
def runChecks (s : State) : State :=
  match firstViolation s.params s.desc with
  | some c => raiseFatal c s
  | none => { s with status := s.status.atStage 1, seq := .split }

/-- The width a stage works with. A width outside 6, 8, 10, 12 is `Fatal(BAD_WORD_BITS)` (R70); after the checks it cannot occur
(log 15). -/
def withWidth (f : EccWidth → State → State) (s : State) : State :=
  match EccWidth.ofBits? s.desc.wordBits.toNat with
  | some w => f w s
  | none => raiseFatal .badWordBits s

/-- The stripper's precondition (R101), then an empty DST (R102). -/
def stripCheck (w : EccWidth) (s : State) : State :=
  if s.results.corLen % w.bits ≠ 0 then raiseFatal .stripLength s
  else { s with dstLen := 0, stripPos := 0, seq := .strip }

/-- How many words the stripper's input has (R102). -/
def State.wordsIn (s : State) (w : EccWidth) : Nat := s.results.corLen / w.bits

/-- The stripper's last word is done: stage 3 begins (R211). -/
def leaveStrip (s : State) : State :=
  { s with status := s.status.atStage 3, seq := .modeInit }

/-- The next word is read (R102). -/
def fetchWord (s : State) : State := { s with stripPos := s.stripPos + 1 }

/-- One turn of the stripper's loop (R102). -/
def stripStep (s : State) : StepResult :=
  match EccWidth.ofBits? s.desc.wordBits.toNat with
  | none => .next (raiseFatal .badWordBits s)
  | some w =>
    if s.stripPos < s.wordsIn w then exec (decodeStuffed w (s.corWord w s.stripPos)) (fetchWord s)
    else .next (leaveStrip s)

/-- The per-decode reset of the transient state (R24, R129). -/
def resetTransient (s : State) : State :=
  { s with md := s.md.restart, seq := .mode }

/-- `POS <- POS + SYM_WIDTH(MODE)` (R112). -/
def fetchSymbol (s : State) : State :=
  { s with md := { s.md with pos := s.md.pos + symWidth s.params.byteWidth s.md.mode } }

/-- The successful end: OUT becomes MSG (R121) and the decode finishes (R216). -/
def finish (s : State) : State :=
  { s with
    msg := writeFrom s.outChar s.md.outLen s.msg
    results := { s.results with msgLen := s.md.outLen }
    status := s.status.success
    seq := .idle }

/-- One turn of the Mode Decoder's loop (R111, R112, R122). -/
def modeStep (s : State) : StepResult :=
  if s.bitsLeft < symWidth s.params.byteWidth s.md.mode then .next (finish s)
  else exec (decodeSymbol s.md.mode s.symbolValue) (fetchSymbol s)

/-- One step of the block: the next operation of R211. Between decodes it is idle and keeps all state (R247, R261). -/
def blockStep (s : State) : StepResult :=
  match s.seq with
  | .idle => .next s
  | .checks => .next (runChecks s)
  | .split => .next (withWidth splitStage s)
  | .correct => .next (withWidth correctStage s)
  | .repack => .next (withWidth repackStage s)
  | .stripCheck => .next (withWidth stripCheck s)
  | .strip => stripStep s
  | .modeInit => .next (resetTransient s)
  | .mode => modeStep s

/-! ### Placing a code word where the next step fetches it -/

/-- `STATUS` of a decode that has reached stage `n` past the correction. -/
def runningAt (n : BitVec 2) (s : State) : Status := s.status.start.corrected.atStage n

/-- A symbol of mode `m` and value `v` as the one thing left in DST, the block in its symbol loop (log 11). -/
def placeSymbol (m : Mode) (v : Nat) (s : State) : State :=
  { s with
    status := runningAt 3 s
    md := { s.md with mode := m }
    dst := memWrite s.dst s.md.pos (symWidth s.params.byteWidth m) v
    dstLen := s.md.pos + symWidth s.params.byteWidth m
    seq := .mode
    host := [] }

/-- A word of `n` bits and value `v` as the stripper's whole input, the block in its word loop (log 11). -/
def placeWord (n v : Nat) (s : State) : State :=
  { s with
    desc := { s.desc with wordBits := BitVec.ofNat 4 n }
    results := { s.results with corLen := n }
    status := runningAt 2 s
    cor := memWrite s.cor 0 n v
    seq := .strip
    stripPos := 0
    host := [] }

/-- A table word placed in the context `tableCtx` gives it. -/
def placeTableWord (nbits w : Nat) (s : State) : State :=
  match tableCtx nbits w with
  | none => s
  | some (.symbol m) => placeSymbol m w s
  | some (.word n) => placeWord n w s

end Sys2Proof.Machine
end

