-- ==== Sys2Proof/Machine/HostPort.lean ====
section
/-! DEFINITION. The host's side: register numbers, reads and writes, START, the byte views of RAW and COR, hardware reset
(spec/10_state.md R11, R14, spec/20_memory.md R42, R52, spec/70_reset_and_hazards.md R261, R272, R273). -/

namespace Sys2Proof.Machine

/-- The register numbers of R11. -/
def Reg.number : Reg → Nat
  | .dataLayers => 0
  | .wordBits => 1
  | .msgWords => 2
  | .capWords => 3
  | .capBits => 4
  | .rawLen => 5
  | .corLen => 6
  | .totalErrs => 7
  | .msgLen => 8
  | .status => 9
  | .ctrl => 10

/-- What a register reads as (R11): `CTRL` reads as 0. -/
def regWord (s : State) : Reg → Nat
  | .dataLayers => s.desc.dataLayers.toNat
  | .wordBits => s.desc.wordBits.toNat
  | .msgWords => s.desc.msgWords
  | .capWords => s.desc.capWords
  | .capBits => s.desc.capBits
  | .rawLen => s.desc.rawLen
  | .corLen => s.results.corLen
  | .totalErrs => s.results.totalErrs
  | .msgLen => s.results.msgLen
  | .status => s.status.word.toNat
  | .ctrl => 0

/-- A write of `CTRL` (R14, R212, R273): 1 is START, taken if it is accepted and otherwise ignored; 0 does nothing. -/
def writeCtrl (v : BitVec 1) (s : State) : State :=
  if v = 1 ∧ s.status.acceptsStart = true then acceptStart s else s

/-- What a `LENW`-bit register takes of a value on the host's port: its low `LENW` bits (R11, log 17). -/
def State.fitLen (s : State) (v : Nat) : Nat := v % 2 ^ s.params.lenw

/-- A register write (R11): an RW register holds what was written, whatever it is. -/
def writeReg (w : RegWrite) (s : State) : State :=
  match w with
  | .dataLayers v => { s with desc := { s.desc with dataLayers := v } }
  | .wordBits v => { s with desc := { s.desc with wordBits := v } }
  | .msgWords v => { s with desc := { s.desc with msgWords := s.fitLen v } }
  | .capWords v => { s with desc := { s.desc with capWords := s.fitLen v } }
  | .capBits v => { s with desc := { s.desc with capBits := s.fitLen v } }
  | .rawLen v => { s with desc := { s.desc with rawLen := s.fitLen v } }
  | .ctrl v => writeCtrl v s

/-- The moves that R52 and R272 allow only while `BUSY` = 0. `STATUS` may always be read (R272), a write of `CTRL` while busy is ignored
(R273), `CTRL` always reads 0 (R11), and hardware reset acts at any time (R278). -/
def HostOp.needsIdle : HostOp → Bool
  | .writeReg (.ctrl _) => false
  | .writeReg (.dataLayers _) => true
  | .writeReg (.wordBits _) => true
  | .writeReg (.msgWords _) => true
  | .writeReg (.capWords _) => true
  | .writeReg (.capBits _) => true
  | .writeReg (.rawLen _) => true
  | .readReg r => decide (r ≠ .status ∧ r ≠ .ctrl)
  | .writeRawByte _ _ => true
  | .readRawByte _ => true
  | .readCorByte _ => true
  | .readMsg _ => true
  | .hardReset => false

/-- Hardware reset (R261): every register at its reset value, buffer contents unspecified again (a new epoch of free values). The
outside world, that is the queue of moves, the host's read port and the attached trace sink, is not the block's, and the parameters
are what it was built with (log 18). -/
def hardReset (s : State) : State :=
  { State.reset with params := s.params, trace := s.trace, epoch := s.epoch + 1, host := s.host, hostData := s.hostData }

/-- The host's read port takes a value (log 6). -/
def hostTakes (v : Nat) (s : State) : State := { s with hostData := v }

/-- An access to an element that exists, or the fault (R21; log 8). -/
def ifElement (present : Bool) (s : State) : StepResult :=
  if present then .next s else .fault .noSuchElement

/-- Byte `i` is one of the `ceil(cap / 8)` bytes of a bit buffer of `cap` bits (R42). -/
def byteWithin (cap i : Nat) : Bool := decide (8 * i < cap)

/-- A move of the outside world. -/
def hostAccess (op : HostOp) (s : State) : StepResult :=
  if s.status.busy && op.needsIdle then .refused .hostAccessWhileBusy
  else
    match op with
    | .writeReg w => .next (writeReg w s)
    | .readReg r => .next (hostTakes (regWord s r) s)
    | .writeRawByte i b => ifElement (byteWithin s.params.rawCapBits i) { s with raw := memWrite s.raw (8 * i) 8 b.toNat }
    | .readRawByte i =>
      ifElement (byteWithin s.params.rawCapBits i) (hostTakes (memRead s.rawBit (8 * i) 8) s)
    | .readCorByte i =>
      ifElement (byteWithin s.params.corCapBits i) (hostTakes (memRead s.corBit (8 * i) 8) s)
    | .readMsg i => ifElement (decide (i < s.params.msgCap)) (hostTakes (s.msgChar i).toNat s)
    | .hardReset => .next (hardReset s)

/-- The host's clock: one block step passes (log 5). -/
def State.tick (s : State) : State :=
  match s.host with
  | ⟨n + 1, op⟩ :: rest => { s with host := ⟨n, op⟩ :: rest }
  | _ => s

/-- The host move that is due now, with the moves after it. -/
def State.due (s : State) : Option (HostOp × List HostMove) :=
  match s.host with
  | ⟨0, op⟩ :: rest => some (op, rest)
  | _ => none

end Sys2Proof.Machine
end

