-- ==== Sys2Proof/Machine/Step.lean ====
section
/-! DEFINITION. One step of the machine: the host's move if one is due, else one step of the block. -/

namespace Sys2Proof.Machine

/-- One step (R50, R52; log 5). -/
def step (s : State) : Host.Outcome State Fault Refusal :=
  match s.due with
  | some (op, rest) => hostAccess op { s with host := rest }
  | none => blockStep s.tick

/-- `s` with the opcode-table word `w` of `nbits` bits as the code word the very next step fetches and runs (log 11). -/
def State.withFetchWord (s : State) (nbits w : Nat) : State := placeTableWord nbits w s

end Sys2Proof.Machine
end

