-- ==== Sys2Proof/Machine/Transaction.lean ====
section
/-! DEFINITION. The block as the spec's functions on bit sequences, for claims that the stepping machine refines them: `Dispatch` by the
machine-readable table (spec/30_encoding.md R69), `StripPadding` (R102), the small-step automaton (R128), `Correct` (R92) and `Decode`
(R220). No part of `step` uses this file. -/

namespace Sys2Proof.Machine

/-! ### Dispatch (R114), entry by entry from the table (R68, R69) -/

/-- UPPER, values 0 to 31. -/
def tableUpper : List Action :=
  [.shift .punct, .appendChars 32 none, .appendChars 65 none, .appendChars 66 none,
   .appendChars 67 none, .appendChars 68 none, .appendChars 69 none, .appendChars 70 none] ++
  [.appendChars 71 none, .appendChars 72 none, .appendChars 73 none, .appendChars 74 none,
   .appendChars 75 none, .appendChars 76 none, .appendChars 77 none, .appendChars 78 none] ++
  [.appendChars 79 none, .appendChars 80 none, .appendChars 81 none, .appendChars 82 none,
   .appendChars 83 none, .appendChars 84 none, .appendChars 85 none, .appendChars 86 none] ++
  [.appendChars 87 none, .appendChars 88 none, .appendChars 89 none, .appendChars 90 none,
   .latch .lower, .latch .mixed, .latch .digit, .shift .byte]

/-- LOWER, values 0 to 31. -/
def tableLower : List Action :=
  [.shift .punct, .appendChars 32 none, .appendChars 97 none, .appendChars 98 none,
   .appendChars 99 none, .appendChars 100 none, .appendChars 101 none, .appendChars 102 none] ++
  [.appendChars 103 none, .appendChars 104 none, .appendChars 105 none, .appendChars 106 none,
   .appendChars 107 none, .appendChars 108 none, .appendChars 109 none, .appendChars 110 none] ++
  [.appendChars 111 none, .appendChars 112 none, .appendChars 113 none, .appendChars 114 none,
   .appendChars 115 none, .appendChars 116 none, .appendChars 117 none, .appendChars 118 none] ++
  [.appendChars 119 none, .appendChars 120 none, .appendChars 121 none, .appendChars 122 none,
   .shift .upper, .latch .mixed, .latch .digit, .shift .byte]

/-- MIXED, values 0 to 31. -/
def tableMixed : List Action :=
  [.shift .punct, .appendChars 32 none, .appendChars 1 none, .appendChars 2 none,
   .appendChars 3 none, .appendChars 4 none, .appendChars 5 none, .appendChars 6 none] ++
  [.appendChars 7 none, .appendChars 8 none, .appendChars 9 none, .appendChars 10 none,
   .appendChars 11 none, .appendChars 12 none, .appendChars 13 none, .appendChars 23 none] ++
  [.appendChars 24 none, .appendChars 25 none, .appendChars 26 none, .appendChars 27 none,
   .appendChars 64 none, .appendChars 92 none, .appendChars 94 none, .appendChars 95 none] ++
  [.appendChars 96 none, .appendChars 124 none, .appendChars 126 none, .appendChars 127 none,
   .latch .lower, .latch .upper, .latch .punct, .shift .byte]

/-- PUNCT, values 0 to 31. -/
def tablePunct : List Action :=
  [.failSym .flgUnsupported, .appendChars 13 none, .appendChars 13 (some 10), .appendChars 46 (some 32),
   .appendChars 44 (some 32), .appendChars 58 (some 32), .appendChars 33 none, .appendChars 34 none] ++
  [.appendChars 35 none, .appendChars 36 none, .appendChars 37 none, .appendChars 38 none,
   .appendChars 39 none, .appendChars 40 none, .appendChars 41 none, .appendChars 42 none] ++
  [.appendChars 43 none, .appendChars 44 none, .appendChars 45 none, .appendChars 46 none,
   .appendChars 47 none, .appendChars 58 none, .appendChars 59 none, .appendChars 60 none] ++
  [.appendChars 61 none, .appendChars 62 none, .appendChars 63 none, .appendChars 91 none,
   .appendChars 93 none, .appendChars 123 none, .appendChars 125 none, .latch .upper]

/-- DIGIT, values 0 to 15. -/
def tableDigit : List Action :=
  [.shift .punct, .appendChars 32 none, .appendChars 48 none, .appendChars 49 none,
   .appendChars 50 none, .appendChars 51 none, .appendChars 52 none, .appendChars 53 none] ++
  [.appendChars 54 none, .appendChars 55 none, .appendChars 56 none, .appendChars 57 none,
   .appendChars 44 none, .appendChars 46 none, .latch .upper, .shift .upper]

/-- `Dispatch(m, v)` (R114). BYTE has one entry for every value (R200). -/
def dispatch (m : Mode) (v : Nat) : Action :=
  match m with
  | .upper => tableUpper.getD v (.failSym .noCause)
  | .lower => tableLower.getD v (.failSym .noCause)
  | .mixed => tableMixed.getD v (.failSym .noCause)
  | .punct => tablePunct.getD v (.failSym .noCause)
  | .digit => tableDigit.getD v (.failSym .noCause)
  | .byte => .failSym .byteUnsupported

/-! ### The Padding Stripper (R100 to R102) -/

/-- The bits one word of value `v` emits (R62, R103 to R105). -/
def emitWord (w : EccWidth) (v : Nat) : List Bool :=
  if v = 1 ∨ v = 2 ^ w.bits - 2 then toBits (w.bits - 1) (v >>> 1) else toBits w.bits v

/-- The first `n` words of a bit sequence, each replaced by what it emits, in order. -/
def stripWords (w : EccWidth) : Nat → List Bool → List Bool
  | 0, _ => []
  | n + 1, l => emitWord w (ofBits (l.take w.bits)) ++ stripWords w n (l.drop w.bits)

/-- `stripPadding(bits, wordBitCount)` with its precondition (R101, R102). -/
def stripPadding (w : EccWidth) (l : List Bool) : Except Cause (List Bool) :=
  if l.length % w.bits ≠ 0 then .error .stripLength else .ok (stripWords w (l.length / w.bits) l)

/-- Word `k` of a bit sequence. -/
def wordAt (w : EccWidth) (l : List Bool) (k : Nat) : Nat := ofBits ((l.drop (k * w.bits)).take w.bits)

/-- A stuffed word (R62). -/
def isStuffed (w : EccWidth) (v : Nat) : Bool := decide (v = 1 ∨ v = 2 ^ w.bits - 2)

/-- How many of the first `n` words are stuffed (R107). -/
def stuffedCount (w : EccWidth) (l : List Bool) : Nat → Nat
  | 0 => 0
  | n + 1 => stuffedCount w l n + (isStuffed w (wordAt w l n)).toNat

/-! ### The automaton (R128) -/

/-- The state between symbols, `(pos, mode, revert, out)` (R110, R128). -/
structure Auto where
  pos : Nat
  mode : Mode
  revert : Option Mode
  out : List Char8
  deriving DecidableEq, Repr

/-- What one small step answers (R128). -/
inductive AutoResult where
  | done
  | failed (c : Cause)
  | next (a : Auto)
  deriving DecidableEq, Repr

/-- `(0, UPPER, none, empty)` (R128, R129). -/
def Auto.initial : Auto := { pos := 0, mode := .upper, revert := none, out := [] }

/-- The symbol value at `a` (R112). -/
def Auto.value (bw : Nat) (dst : List Bool) (a : Auto) : Nat := ofBits ((dst.drop a.pos).take (symWidth bw a.mode))

/-- The state after a symbol with handler mode `h`, shift flag and appended characters (R128). -/
def Auto.after (bw : Nat) (a : Auto) (h : Mode) (isShift : Bool) (cs : List Char8) : Auto :=
  { pos := a.pos + symWidth bw a.mode
    mode := a.revert.getD h
    revert := if isShift then some a.mode else none
    out := a.out ++ cs }

/-- `step(DST, σ)` where `BYTE_WIDTH` is `bw` (R128). -/
def autoStep (bw : Nat) (dst : List Bool) (a : Auto) : AutoResult :=
  if dst.length - a.pos < symWidth bw a.mode then .done
  else
    match dispatch a.mode (a.value bw dst) with
    | .appendChars c1 c2 => .next (a.after bw a.mode false (c1 :: c2.toList))
    | .latch m => .next (a.after bw m false [])
    | .shift m => .next (a.after bw m true [])
    | .failSym c => .failed c

/-- At most `n` small steps from `a`. -/
def autoRun (bw : Nat) (dst : List Bool) : Nat → Auto → Except Cause Auto
  | 0, a => .ok a
  | n + 1, a =>
    match autoStep bw dst a with
    | .done => .ok a
    | .failed c => .error c
    | .next a' => autoRun bw dst n a'

/-- The bound on the number of symbols (R123). -/
def symbolBound (len : Nat) : Nat := len / 4

/-- `ModeDecode(DST)` (R122, R128): the text, or the cause of the failure. -/
def modeDecode (bw : Nat) (dst : List Bool) : Except Cause (List Char8) :=
  match autoRun bw dst (symbolBound dst.length + 1) Auto.initial with
  | .ok a => .ok a.out
  | .error c => .error c

/-! ### The whole decode (R92, R220) -/

/-- ECC word `i` of the raw bits (R45, R92). -/
def rawEccWord (w : EccWidth) (raw : Nat → Bool) (i : Nat) : BitVec w.bits := BitVec.ofNat w.bits (memRead raw (i * w.bits) w.bits)

/-- `Correct(RAW, w, m, n)` (R92): the corrected data words as bits and the count, or none where the corrector reports failure. -/
def correctBits (lenw : Nat) (w : EccWidth) (m n : Nat) (raw : Nat → Bool) : Option (List Bool × Nat) :=
  let data : Fin m → BitVec w.bits := fun i => rawEccWord w raw i.val
  let parity : Fin (n - m) → BitVec w.bits := fun j => rawEccWord w raw (m + j.val)
  match Config.rs lenw w (gfConst w) data parity with
  | .ok d count => some ((List.ofFn d).flatMap fun x => toBits w.bits x.toNat, count.toNat)
  | .uncorrectable => none

/-- How a decode ends (R220): a fatal stop; a failure without or with a valid corrected buffer and count; success. -/
inductive DecodeResult where
  | fatal (c : Cause)
  | uncorrectable
  | failure (c : Cause) (cor : List Bool) (count : Nat)
  | success (text : List Char8) (cor : List Bool) (count : Nat)
  deriving DecidableEq, Repr

/-- `Decode(..)` in a block with parameters `p` (R220). -/
def decodeMarker (p : Params) (d : Descriptor) (raw : Nat → Bool) : DecodeResult :=
  match firstViolation p d, EccWidth.ofBits? d.wordBits.toNat with
  | some c, _ => .fatal c
  | none, none => .fatal .badWordBits
  | none, some w =>
    match correctBits p.lenw w d.msgWords d.capWords raw with
    | none => .uncorrectable
    | some (cor, count) =>
      match stripPadding w cor with
      | .error c => .fatal c
      | .ok dst =>
        match modeDecode p.byteWidth dst with
        | .error c => .failure c cor count
        | .ok text => .success text cor count

end Sys2Proof.Machine
end

