-- ==== Sys2Proof/Safety.lean ====
section
/-! DEFINITION. What claims are stated in: the invariants of the machine, what it means for a symbol or a word to have been processed, and
what a decode leaves. -/

namespace Sys2Proof.Machine

/-! ### Invariants -/

/-- Every buffer is in canonical form. -/
def State.buffersWf (s : State) : Prop :=
  s.raw.wf = true ∧ s.dw.wf = true ∧ s.cor.wf = true ∧ s.dst.wf = true ∧ s.out.wf = true ∧ s.msg.wf = true

/-- No buffer holds an element beyond its capacity (R21); RAW and COR occupy whole bytes (R42). -/
def State.buffersWithin (s : State) : Prop :=
  s.raw.below (wholeBytes s.params.rawCapBits) = true ∧ s.dw.below s.params.wordCap = true ∧
    s.cor.below (wholeBytes s.params.corCapBits) = true ∧
    s.dst.below s.params.corCapBits = true ∧ s.out.below s.params.msgCap = true ∧ s.msg.below s.params.msgCap = true

/-- The `STAGE` of R211 at a place of the sequence. -/
def Seq.stage : Seq → BitVec 2
  | .idle => 0
  | .checks => 0
  | .split => 1
  | .correct => 1
  | .repack => 1
  | .stripCheck => 2
  | .strip => 2
  | .modeInit => 3
  | .mode => 3

/-- The places after a successful correction step (R89). -/
def Seq.pastRepack : Seq → Bool
  | .stripCheck => true
  | .strip => true
  | .modeInit => true
  | .mode => true
  | .idle => false
  | .checks => false
  | .split => false
  | .correct => false
  | .repack => false

/-- The places after the checks (R213). -/
def Seq.pastChecks : Seq → Bool
  | .split => true
  | .correct => true
  | .repack => true
  | .stripCheck => true
  | .strip => true
  | .modeInit => true
  | .mode => true
  | .idle => false
  | .checks => false

/-- `STATUS` says what the block is doing and how the last decode ended (R13, R230): `BUSY` exactly while a decode runs and never with
`DONE`; while it runs, `STAGE` and `COR_VALID` follow the sequence; `FATAL` exactly with a fatal cause; `OK` only with what a success
leaves. -/
def State.statusCoherent (s : State) : Prop :=
  (s.status.busy = true ↔ s.seq ≠ .idle) ∧
  ¬ (s.status.busy = true ∧ s.status.done = true) ∧
  (s.status.busy = true →
    s.status.ok = false ∧ s.status.fatal = false ∧ s.status.cause = .noCause ∧ s.status.stage = s.seq.stage ∧
      s.status.corValid = s.seq.pastRepack) ∧
  (s.status.fatal = true ↔ s.status.cause.isFatal = true) ∧
  (s.status.ok = true →
    s.status.done = true ∧ s.status.cause = .noCause ∧ s.status.corValid = true ∧ s.status.msgValid = true ∧ s.status.stage = 3) ∧
  (s.status.done = true → s.status.cause = .noCause → s.status.ok = true)

/-- A running decode past the checks has a descriptor that passes them (R213, R80). -/
def State.descriptorChecked (s : State) : Prop :=
  s.seq.pastChecks = true → firstViolation s.params s.desc = none

/-- The lengths of a running decode: `COR_LEN` (R46), the stripper's progress (R102, R107), the symbol cursor (R15) and the output
bound (R123). -/
def State.lengthsBounded (s : State) : Prop :=
  (s.seq.pastRepack = true → s.results.corLen = s.desc.msgWords * s.desc.wordBits.toNat) ∧
  (s.seq = .strip → s.stripPos ≤ s.desc.msgWords ∧ s.dstLen ≤ s.stripPos * s.desc.wordBits.toNat) ∧
  ((s.seq = .modeInit ∨ s.seq = .mode) → s.dstLen ≤ s.results.corLen) ∧
  (s.seq = .mode → s.md.pos ≤ s.dstLen ∧ 5 * s.md.outLen ≤ 2 * s.md.pos)

/-- The parameters are as R6 requires, and every `LENW`-bit register holds a value of `LENW` bits (R11). -/
def State.registersFit (s : State) : Prop :=
  s.params.Legal ∧
  s.desc.msgWords < 2 ^ s.params.lenw ∧ s.desc.capWords < 2 ^ s.params.lenw ∧ s.desc.capBits < 2 ^ s.params.lenw ∧
  s.desc.rawLen < 2 ^ s.params.lenw ∧ s.results.corLen < 2 ^ s.params.lenw ∧ s.results.totalErrs < 2 ^ s.params.lenw ∧
  s.results.msgLen < 2 ^ s.params.lenw

/-- The invariant of the machine. -/
def State.Inv (s : State) : Prop :=
  s.buffersWf ∧ s.buffersWithin ∧ s.statusCoherent ∧ s.descriptorChecked ∧ s.lengthsBounded ∧ s.registersFit

/-! ### Runs -/

/-- No host move is due: the next step is the block's. -/
abbrev State.hostWaits (s : State) : Prop := s.due = none

/-- The host makes no move at all. -/
abbrev State.hostSilent (s : State) : Prop := s.host = []

/-- The run of `n` steps. -/
def runFor (n : Nat) (s : State) : StepResult := Host.Core.run Sys2Proof.core n s

/-! ### Kinds of code words (R73) -/

/-- The entries whose result is a shift (R73). -/
def isShift : Instr → Bool
  | .uPS | .uBS | .lPS | .lUS | .lBS | .mPS | .mBS | .dPS | .dUS => true
  | .uSP | .uCH _ | .uLL | .uML | .uDL => false
  | .lSP | .lCH _ | .lML | .lDL => false
  | .mSP | .mC1 _ | .mC2 _ | .mAT | .mBSL | .mG3 _ | .mBAR | .mTIL | .mDEL | .mLL | .mUL | .mPL => false
  | .pFLG | .pCR | .pCRLF | .pDOTSP | .pCOMSP | .pCOLSP | .pG1 _ | .pG2 _ | .pLBR | .pRBR | .pLCB | .pRCB | .pUL => false
  | .dSP | .dCH _ | .dCOM | .dDOT | .dUL => false
  | .bANY _ => false
  | .stuff0 _ | .stuff1 _ | .pass _ _ => false

/-- The two entries that fail the decode (R73, R120). -/
def isFailing : Instr → Bool
  | .pFLG | .bANY _ => true
  | .uPS | .uSP | .uCH _ | .uLL | .uML | .uDL | .uBS => false
  | .lPS | .lSP | .lCH _ | .lUS | .lML | .lDL | .lBS => false
  | .mPS | .mSP | .mC1 _ | .mC2 _ | .mAT | .mBSL | .mG3 _ | .mBAR | .mTIL | .mDEL | .mLL | .mUL | .mPL | .mBS => false
  | .pCR | .pCRLF | .pDOTSP | .pCOMSP | .pCOLSP | .pG1 _ | .pG2 _ | .pLBR | .pRBR | .pLCB | .pRCB | .pUL => false
  | .dPS | .dSP | .dCH _ | .dCOM | .dDOT | .dUL | .dUS => false
  | .stuff0 _ | .stuff1 _ | .pass _ _ => false

/-- A symbol of one of the six modes, not a stripper word. -/
def isSymbol (i : Instr) : Prop := ∃ m, i.ctx = .symbol m

/-- The code word at POS under the current mode (R112, R114). -/
def State.nextSymbol (s : State) : Instr := decodeSymbol s.md.mode s.symbolValue

/-- The block is in its symbol loop and a whole symbol remains (R111). -/
def State.symbolReady (s : State) : Prop := s.seq = .mode ∧ symWidth s.params.byteWidth s.md.mode ≤ s.bitsLeft

/-! ### What processing one code word leaves -/

/-- Everything outside the Mode Decoder's transient state, OUT and the trace is as before. -/
def State.sameOutsideSymbol (s t : State) : Prop :=
  t.params = s.params ∧
  t.desc = s.desc ∧ t.results = s.results ∧ t.status = s.status ∧ t.raw = s.raw ∧ t.dw = s.dw ∧ t.cor = s.cor ∧ t.dst = s.dst ∧
    t.dstLen = s.dstLen ∧ t.msg = s.msg ∧ t.seq = s.seq ∧ t.stripPos = s.stripPos ∧ t.epoch = s.epoch ∧ t.host = s.host ∧
    t.hostData = s.hostData

/-- OUT has grown by exactly `cs`, every other character as before (R115). -/
def State.outGrewBy (s t : State) (cs : List Char8) : Prop :=
  t.md.outLen = s.md.outLen + cs.length ∧
  (∀ k, k < cs.length → t.out.read (s.md.outLen + k) = cs[k]?) ∧
  (∀ i, i < s.md.outLen ∨ s.md.outLen + cs.length ≤ i → t.out.read i = s.out.read i)

/-- A symbol of value `v`, read under `s.md.mode`, has been processed to its end (R113 to R119, R122): `PRIOR`, `LATCHED`, the mode `h` its
handler left unless a pending revert overrode it, `REVERT`, the characters `cs` appended, its trace line, and nothing else. `POS` is
where the fetch left it. -/
def State.symbolDone (s t : State) (v : Nat) (h : Mode) (shifted : Bool) (cs : List Char8) : Prop :=
  t.md.prior = s.md.mode ∧ t.md.latched = !shifted ∧ t.md.mode = s.md.revert.getD h ∧
  t.md.revert = (if shifted then some s.md.mode else none) ∧ t.md.pos = s.md.pos ∧
  s.outGrewBy t cs ∧
  t.trace = s.trace.map (fun l => l ++ [{ mode := s.md.mode, latched := !shifted, value := v }]) ∧
  s.sameOutsideSymbol t

/-- A symbol has failed with cause `c` (R120, R231, R240): `STATUS` as `raise Fail` leaves it, the block idle, `PRIOR` and `LATCHED` from
step 2, and nothing else: no revert, no text, no message, no trace line. -/
def State.symbolFailed (s t : State) (c : Cause) : Prop :=
  t.status.cause = c ∧ t.status.ok = false ∧ t.status.busy = false ∧ t.status.done = true ∧
  t.status.fatal = s.status.fatal ∧ t.status.corValid = s.status.corValid ∧ t.status.msgValid = s.status.msgValid ∧
  t.status.stage = s.status.stage ∧ t.seq = .idle ∧
  t.md.prior = s.md.mode ∧ t.md.latched = true ∧ t.md.mode = s.md.mode ∧ t.md.revert = s.md.revert ∧ t.md.pos = s.md.pos ∧
  t.md.outLen = s.md.outLen ∧
  t.params = s.params ∧
  t.desc = s.desc ∧ t.results = s.results ∧ t.raw = s.raw ∧ t.dw = s.dw ∧ t.cor = s.cor ∧ t.dst = s.dst ∧ t.dstLen = s.dstLen ∧
  t.out = s.out ∧ t.msg = s.msg ∧ t.trace = s.trace ∧ t.stripPos = s.stripPos ∧ t.epoch = s.epoch ∧ t.host = s.host ∧
  t.hostData = s.hostData

/-- DST has grown by exactly the bits `l`, every other bit and everything else as before (R7 `Append`, R102). -/
def State.dstGrewBy (s t : State) (l : List Bool) : Prop :=
  t.dstLen = s.dstLen + l.length ∧
  (∀ k, k < l.length → t.dst.read (s.dstLen + k) = l[k]?) ∧
  (∀ i, i < s.dstLen ∨ s.dstLen + l.length ≤ i → t.dst.read i = s.dst.read i) ∧
  t.params = s.params ∧
  t.desc = s.desc ∧ t.results = s.results ∧ t.status = s.status ∧ t.md = s.md ∧ t.raw = s.raw ∧ t.dw = s.dw ∧ t.cor = s.cor ∧
  t.out = s.out ∧ t.msg = s.msg ∧ t.trace = s.trace ∧ t.seq = s.seq ∧ t.stripPos = s.stripPos ∧ t.epoch = s.epoch ∧
  t.host = s.host ∧ t.hostData = s.hostData

/-! ### Buffers as sequences -/

/-- The valid bits of COR (R40). -/
def State.corBits (s : State) : List Bool := readBits s.corBit 0 s.results.corLen

/-- The valid bits of DST (R40). -/
def State.dstBits (s : State) : List Bool := readBits s.dstBit 0 s.dstLen

/-- The published text (R40). -/
def State.msgText (s : State) : List Char8 := (List.range s.results.msgLen).map s.msgChar

/-- The text so far (R40). -/
def State.outText (s : State) : List Char8 := (List.range s.md.outLen).map s.outChar

/-- The automaton's state between symbols (R110, R128). -/
def State.auto (s : State) : Auto :=
  { pos := s.md.pos, mode := s.md.mode, revert := s.md.revert, out := s.outText }

/-- MSG, `MSG_LEN` and `MSG_VALID` are as before (R217, R240, R241). -/
def State.messageKept (s t : State) : Prop :=
  t.msg = s.msg ∧ t.results.msgLen = s.results.msgLen ∧ t.status.msgValid = s.status.msgValid

/-- COR, `COR_LEN` and `TOTAL_ERRS` hold a corrected buffer, and `COR_VALID` says so (R13, R89). -/
def State.corHolds (t : State) (cor : List Bool) (count : Nat) : Prop :=
  t.corBits = cor ∧ t.results.corLen = cor.length ∧ t.results.totalErrs = count ∧ t.status.corValid = true

/-- The host-visible end of a decode that started at `s` and ended with result `r` (R216, R240, R241). -/
def State.endsWith (s t : State) : DecodeResult → Prop
  | .fatal c =>
    t.status.fatal = true ∧ t.status.ok = false ∧ t.status.cause = c ∧ t.status.stage = 0 ∧ t.status.corValid = false ∧
      s.messageKept t ∧ t.cor = s.cor ∧ t.results = s.results
  | .uncorrectable =>
    t.status.fatal = false ∧ t.status.ok = false ∧ t.status.cause = .eccUncorrectable ∧ t.status.stage = 1 ∧
      t.status.corValid = false ∧ s.messageKept t ∧ t.cor = s.cor ∧ t.results = s.results
  | .failure c cor count =>
    t.status.fatal = false ∧ t.status.ok = false ∧ t.status.cause = c ∧ t.status.stage = 3 ∧ s.messageKept t ∧ t.corHolds cor count
  | .success text cor count =>
    t.status.fatal = false ∧ t.status.ok = true ∧ t.status.cause = .noCause ∧ t.status.stage = 3 ∧ t.status.msgValid = true ∧
      t.msgText = text ∧ t.results.msgLen = text.length ∧ t.corHolds cor count

end Sys2Proof.Machine
end

