-- ==== Sys2Proof/Certificates/Slice0/Obligations.lean ====
section
/-! DEFINITION. The statements for the provers, each from the rules of spec/ its docstring names. -/

section

open Sys2Proof Sys2Proof.Machine

/-! ### Encoding -/

/-- Words written out from R68, R63 and R62, one or two per family, decode to the entry they stand for, with `BYTE_WIDTH` 8, and a BYTE
symbol also with `BYTE_WIDTH` 5 (U2). -/
def Obligations.SampleWordsDecode : Prop :=
  decode 8 (.symbol .upper) [true, true, true, false, false] = .ok (.uLL, []) ∧
  decode 8 (.symbol .upper) [false, false, false, true, false, true] = .ok (.uCH 2, [true]) ∧
  decode 8 (.symbol .lower) [true, true, false, true, true] = .ok (.lCH 27, []) ∧
  decode 8 (.symbol .lower) [true, true, true, false, false] = .ok (.lUS, []) ∧
  decode 8 (.symbol .mixed) [false, true, true, true, true] = .ok (.mC2 15, []) ∧
  decode 8 (.symbol .mixed) [true, true, true, true, false] = .ok (.mPL, []) ∧
  decode 8 (.symbol .punct) [false, false, false, false, false] = .ok (.pFLG, []) ∧
  decode 8 (.symbol .punct) [true, false, true, false, true] = .ok (.pG2 21, []) ∧
  decode 8 (.symbol .digit) [true, false, true, true] = .ok (.dCH 11, []) ∧
  decode 8 (.symbol .digit) [true, true, true, true] = .ok (.dUS, []) ∧
  decode 8 (.symbol .byte) [false, true, false, false, false, false, false, true] = .ok (.bANY 65, []) ∧
  decode 8 (.word 6) [false, false, false, false, false, true] = .ok (.stuff0 .w6, []) ∧
  decode 8 (.word 8) [true, true, true, true, true, true, true, false] = .ok (.stuff1 .w8, []) ∧
  decode 8 (.word 6) [false, false, false, true, true, false] = .ok (.pass .w6 6, []) ∧
  decode 8 (.word 7) [false, false, false, false, false, false, true] = .error .badWordBits ∧
  decode 8 (.symbol .digit) [true, true, true] = .error .tooFewBits ∧
  decode 5 (.symbol .byte) [false, true, false, false, false, false] = .ok (.bANY 8, [false])

/-- Encoding a well-formed code word and decoding it, with any bits after it, gives it back with every operand, whatever
`BYTE_WIDTH` is (R60, R65, R71). -/
def Obligations.DecodeInvertsEncode : Prop :=
  ∀ (bw : Nat) (i : Instr) (rest : List Bool), i.wf bw = true → decode bw i.ctx (encode bw i ++ rest) = .ok (i, rest)

/-- What decodes is well formed, belongs to the context it was read in, and encodes to the bits it was read from (R60, R64, R67). -/
def Obligations.EncodeInvertsDecode : Prop :=
  ∀ (bw : Nat) (c : Ctx) (bits rest : List Bool) (i : Instr), decode bw c bits = .ok (i, rest) →
    i.wf bw = true ∧ i.ctx = c ∧ bits = encode bw i ++ rest

/-- The tables are total and unambiguous: every value of every mode's symbol width is the value of exactly one entry of that mode, and
every value of a word width is that of exactly one stripper class (R67, R62). -/
def Obligations.EveryValueHasOneEntry : Prop :=
  (∀ (bw : Nat) (m : Mode) (v : Nat), v < 2 ^ symWidth bw m →
    ∃ i : Instr, (i.wf bw = true ∧ i.ctx = .symbol m ∧ encodeValue i = v) ∧
      ∀ j : Instr, j.wf bw = true → j.ctx = .symbol m → encodeValue j = v → j = i) ∧
  (∀ (bw : Nat) (w : EccWidth) (v : Nat), v < 2 ^ w.bits →
    ∃ i : Instr, (i.wf bw = true ∧ i.ctx = .word w.bits ∧ encodeValue i = v) ∧
      ∀ j : Instr, j.wf bw = true → j.ctx = .word w.bits → encodeValue j = v → j = i)

/-- Decoding gives no code word exactly when too few bits remain (R111) or the word width is none of 6, 8, 10, 12 (R70). -/
def Obligations.DecodeRefusesExactly : Prop :=
  ∀ bw : Nat,
    (∀ (m : Mode) (bits : List Bool), (∃ i rest, decode bw (.symbol m) bits = .ok (i, rest)) ↔ symWidth bw m ≤ bits.length) ∧
    (∀ (n : Nat) (bits : List Bool),
      (∃ i rest, decode bw (.word n) bits = .ok (i, rest)) ↔ ((n = 6 ∨ n = 8 ∨ n = 10 ∨ n = 12) ∧ n ≤ bits.length)) ∧
    (∀ (n : Nat) (bits : List Bool), decode bw (.word n) bits = .error .badWordBits ↔ ¬ (n = 6 ∨ n = 8 ∨ n = 10 ∨ n = 12))

/-- A symbol's meaning is the entry of the dispatch table for the mode it is read in and its value (R68, R114), applied by the loop's
steps 2 to 5. -/
def Obligations.MeaningsFollowTheDispatchTable : Prop :=
  ∀ (m : Mode) (v : Nat) (s : State), v < 2 ^ symWidth s.params.byteWidth m → exec (decodeSymbol m v) s = runSymbol v (dispatch m v) s

/-! ### A step runs the decoded code word -/

/-- In the symbol loop, when the bits left in DST decode to `i` under MODE, a step is `exec i` after the fetch has moved POS (R112). The
tick of the host's clock is the model's own (log 5). -/
def Obligations.StepRunsDecodedSymbol : Prop :=
  ∀ (s : State) (i : Instr) (rest : List Bool), s.hostWaits → s.seq = .mode →
    decode s.params.byteWidth (.symbol s.md.mode) (readBits s.dstBit s.md.pos (s.dstLen - s.md.pos)) = .ok (i, rest) →
    step s = exec i { s.tick with md := { s.md with pos := s.md.pos + symWidth s.params.byteWidth s.md.mode } }

/-- In the stripper's loop, when the bits left in COR decode to `i` at width `WORD_BITS`, a step is `exec i` after the word index has
moved (R102). The word index and the tick are the model's own (log 4, log 5). -/
def Obligations.StepRunsDecodedWord : Prop :=
  ∀ (s : State) (i : Instr) (rest : List Bool), s.hostWaits → s.seq = .strip →
    decode s.params.byteWidth (.word s.desc.wordBits.toNat)
        (readBits s.corBit (s.stripPos * s.desc.wordBits.toNat) (s.results.corLen - s.stripPos * s.desc.wordBits.toNat)) =
      .ok (i, rest) →
    step s = exec i { s.tick with stripPos := s.stripPos + 1 }

/-! ### The entries -/

/-- Every UPPER entry completes with the result of R130 to R136 and the steps R113 to R119. -/
def Obligations.UpperEntriesComplete : Prop :=
  ∀ s : State,
    (∃ t, exec .uPS s = .next t ∧ s.symbolDone t 0 .punct true []) ∧
    (∃ t, exec .uSP s = .next t ∧ s.symbolDone t 1 s.md.mode false [32]) ∧
    (∀ v : BitVec 5, 2 ≤ v.toNat → v.toNat ≤ 27 →
      ∃ t, exec (.uCH v) s = .next t ∧ s.symbolDone t v.toNat s.md.mode false [BitVec.ofNat 8 (65 + (v.toNat - 2))]) ∧
    (∃ t, exec .uLL s = .next t ∧ s.symbolDone t 28 .lower false []) ∧
    (∃ t, exec .uML s = .next t ∧ s.symbolDone t 29 .mixed false []) ∧
    (∃ t, exec .uDL s = .next t ∧ s.symbolDone t 30 .digit false []) ∧
    (∃ t, exec .uBS s = .next t ∧ s.symbolDone t 31 .byte true [])

/-- Every LOWER entry completes with the result of R140 to R146 and the steps R113 to R119. -/
def Obligations.LowerEntriesComplete : Prop :=
  ∀ s : State,
    (∃ t, exec .lPS s = .next t ∧ s.symbolDone t 0 .punct true []) ∧
    (∃ t, exec .lSP s = .next t ∧ s.symbolDone t 1 s.md.mode false [32]) ∧
    (∀ v : BitVec 5, 2 ≤ v.toNat → v.toNat ≤ 27 →
      ∃ t, exec (.lCH v) s = .next t ∧ s.symbolDone t v.toNat s.md.mode false [BitVec.ofNat 8 (97 + (v.toNat - 2))]) ∧
    (∃ t, exec .lUS s = .next t ∧ s.symbolDone t 28 .upper true []) ∧
    (∃ t, exec .lML s = .next t ∧ s.symbolDone t 29 .mixed false []) ∧
    (∃ t, exec .lDL s = .next t ∧ s.symbolDone t 30 .digit false []) ∧
    (∃ t, exec .lBS s = .next t ∧ s.symbolDone t 31 .byte true [])

/-- Every MIXED entry completes with the result of R150 to R163 and the steps R113 to R119. -/
def Obligations.MixedEntriesComplete : Prop :=
  ∀ s : State,
    (∃ t, exec .mPS s = .next t ∧ s.symbolDone t 0 .punct true []) ∧
    (∃ t, exec .mSP s = .next t ∧ s.symbolDone t 1 s.md.mode false [32]) ∧
    (∀ v : BitVec 5, 2 ≤ v.toNat → v.toNat ≤ 14 →
      ∃ t, exec (.mC1 v) s = .next t ∧ s.symbolDone t v.toNat s.md.mode false [BitVec.ofNat 8 (v.toNat - 1)]) ∧
    (∀ v : BitVec 5, 15 ≤ v.toNat → v.toNat ≤ 19 →
      ∃ t, exec (.mC2 v) s = .next t ∧ s.symbolDone t v.toNat s.md.mode false [BitVec.ofNat 8 (v.toNat + 8)]) ∧
    (∃ t, exec .mAT s = .next t ∧ s.symbolDone t 20 s.md.mode false [64]) ∧
    (∃ t, exec .mBSL s = .next t ∧ s.symbolDone t 21 s.md.mode false [92]) ∧
    (∀ v : BitVec 5, 22 ≤ v.toNat → v.toNat ≤ 24 →
      ∃ t, exec (.mG3 v) s = .next t ∧ s.symbolDone t v.toNat s.md.mode false [BitVec.ofNat 8 (v.toNat + 72)]) ∧
    (∃ t, exec .mBAR s = .next t ∧ s.symbolDone t 25 s.md.mode false [124]) ∧
    (∃ t, exec .mTIL s = .next t ∧ s.symbolDone t 26 s.md.mode false [126]) ∧
    (∃ t, exec .mDEL s = .next t ∧ s.symbolDone t 27 s.md.mode false [127]) ∧
    (∃ t, exec .mLL s = .next t ∧ s.symbolDone t 28 .lower false []) ∧
    (∃ t, exec .mUL s = .next t ∧ s.symbolDone t 29 .upper false []) ∧
    (∃ t, exec .mPL s = .next t ∧ s.symbolDone t 30 .punct false []) ∧
    (∃ t, exec .mBS s = .next t ∧ s.symbolDone t 31 .byte true [])

/-- Every PUNCT entry but `P.FLG` completes with the result of R171 to R182 and the steps R113 to R119. -/
def Obligations.PunctEntriesComplete : Prop :=
  ∀ s : State,
    (∃ t, exec .pCR s = .next t ∧ s.symbolDone t 1 s.md.mode false [13]) ∧
    (∃ t, exec .pCRLF s = .next t ∧ s.symbolDone t 2 s.md.mode false [13, 10]) ∧
    (∃ t, exec .pDOTSP s = .next t ∧ s.symbolDone t 3 s.md.mode false [46, 32]) ∧
    (∃ t, exec .pCOMSP s = .next t ∧ s.symbolDone t 4 s.md.mode false [44, 32]) ∧
    (∃ t, exec .pCOLSP s = .next t ∧ s.symbolDone t 5 s.md.mode false [58, 32]) ∧
    (∀ v : BitVec 5, 6 ≤ v.toNat → v.toNat ≤ 20 →
      ∃ t, exec (.pG1 v) s = .next t ∧ s.symbolDone t v.toNat s.md.mode false [BitVec.ofNat 8 (v.toNat + 27)]) ∧
    (∀ v : BitVec 5, 21 ≤ v.toNat → v.toNat ≤ 26 →
      ∃ t, exec (.pG2 v) s = .next t ∧ s.symbolDone t v.toNat s.md.mode false [BitVec.ofNat 8 (v.toNat + 37)]) ∧
    (∃ t, exec .pLBR s = .next t ∧ s.symbolDone t 27 s.md.mode false [91]) ∧
    (∃ t, exec .pRBR s = .next t ∧ s.symbolDone t 28 s.md.mode false [93]) ∧
    (∃ t, exec .pLCB s = .next t ∧ s.symbolDone t 29 s.md.mode false [123]) ∧
    (∃ t, exec .pRCB s = .next t ∧ s.symbolDone t 30 s.md.mode false [125]) ∧
    (∃ t, exec .pUL s = .next t ∧ s.symbolDone t 31 .upper false [])

/-- Every DIGIT entry completes with the result of R190 to R196 and the steps R113 to R119. -/
def Obligations.DigitEntriesComplete : Prop :=
  ∀ s : State,
    (∃ t, exec .dPS s = .next t ∧ s.symbolDone t 0 .punct true []) ∧
    (∃ t, exec .dSP s = .next t ∧ s.symbolDone t 1 s.md.mode false [32]) ∧
    (∀ v : BitVec 4, 2 ≤ v.toNat → v.toNat ≤ 11 →
      ∃ t, exec (.dCH v) s = .next t ∧ s.symbolDone t v.toNat s.md.mode false [BitVec.ofNat 8 (48 + (v.toNat - 2))]) ∧
    (∃ t, exec .dCOM s = .next t ∧ s.symbolDone t 12 s.md.mode false [44]) ∧
    (∃ t, exec .dDOT s = .next t ∧ s.symbolDone t 13 s.md.mode false [46]) ∧
    (∃ t, exec .dUL s = .next t ∧ s.symbolDone t 14 .upper false []) ∧
    (∃ t, exec .dUS s = .next t ∧ s.symbolDone t 15 .upper true [])

/-- `P.FLG` and every `B.ANY` complete by raising their failure and do nothing else (R120, R170, R200): no revert, no text, no message. A
step that reads one leaves POS past it, by 5 bits or by `BYTE_WIDTH`, whatever that is. -/
def Obligations.FailingSymbolsEndTheDecode : Prop :=
  (∀ s : State, ∃ t, exec .pFLG s = .next t ∧ s.symbolFailed t .flgUnsupported) ∧
  (∀ (s : State) (v : Nat), ∃ t, exec (.bANY v) s = .next t ∧ s.symbolFailed t .byteUnsupported) ∧
  (∀ s : State, s.hostWaits → s.symbolReady → s.md.mode = .punct → s.symbolValue = 0 →
    ∃ t, step s = .next t ∧ t.status.cause = .flgUnsupported ∧ t.status.ok = false ∧ t.status.busy = false ∧ t.status.done = true ∧
      t.status.stage = s.status.stage ∧ t.seq = .idle ∧ t.md.pos = s.md.pos + 5 ∧ t.md.revert = s.md.revert ∧ s.messageKept t) ∧
  (∀ s : State, s.hostWaits → s.symbolReady → s.md.mode = .byte →
    ∃ t, step s = .next t ∧ t.status.cause = .byteUnsupported ∧ t.status.ok = false ∧ t.status.busy = false ∧ t.status.done = true ∧
      t.status.stage = s.status.stage ∧ t.seq = .idle ∧
        t.md.pos = s.md.pos + s.params.byteWidth ∧ t.md.revert = s.md.revert ∧ s.messageKept t)

/-- A word of value 1 is `STUFF0` and appends `w - 1` zero bits to DST (R103); nothing else changes. -/
def Obligations.StuffedLowWordEmitsZeros : Prop :=
  ∀ (w : EccWidth) (s : State), decodeStuffed w 1 = .stuff0 w ∧
    ∃ t, exec (.stuff0 w) s = .next t ∧ s.dstGrewBy t (List.replicate (w.bits - 1) false)

/-- A word of value `2^w - 2` is `STUFF1` and appends `w - 1` one bits to DST (R104); nothing else changes. -/
def Obligations.StuffedHighWordEmitsOnes : Prop :=
  ∀ (w : EccWidth) (s : State), decodeStuffed w (2 ^ w.bits - 2) = .stuff1 w ∧
    ∃ t, exec (.stuff1 w) s = .next t ∧ s.dstGrewBy t (List.replicate (w.bits - 1) true)

/-- A word of any other value is `PASS` and appends its `w` bits, most significant first (R105); nothing else changes. -/
def Obligations.PlainWordPassesUnchanged : Prop :=
  ∀ (w : EccWidth) (v : Nat) (s : State), v < 2 ^ w.bits → v ≠ 1 → v ≠ 2 ^ w.bits - 2 →
    decodeStuffed w v = .pass w (BitVec.ofNat 12 v) ∧
    ∃ t, exec (.pass w (BitVec.ofNat 12 v)) s = .next t ∧ s.dstGrewBy t (toBits w.bits v)

/-- The words 0, `2^w - 1`, 2 and `2^w - 3` are neither stuffed nor errors: they pass with all `w` bits (R106). -/
def Obligations.BoundaryWordsPass : Prop :=
  ∀ (w : EccWidth) (s : State),
    (∃ t, exec (decodeStuffed w 0) s = .next t ∧ s.dstGrewBy t (List.replicate w.bits false)) ∧
    (∃ t, exec (decodeStuffed w (2 ^ w.bits - 1)) s = .next t ∧ s.dstGrewBy t (List.replicate w.bits true)) ∧
    (∃ t, exec (decodeStuffed w 2) s = .next t ∧ s.dstGrewBy t (List.replicate (w.bits - 2) false ++ [true, false])) ∧
    (∃ t, exec (decodeStuffed w (2 ^ w.bits - 3)) s = .next t ∧ s.dstGrewBy t (List.replicate (w.bits - 2) true ++ [false, true]))

/-! ### The automaton -/

/-- The loop guard and the fetch (R111, R112): with fewer bits left than one symbol the loop ends successfully, whatever those bits, the
revert and the latch are; otherwise the next symbol is read most significant bit first and POS moves past it. -/
def Obligations.SymbolLoopGuard : Prop :=
  ∀ s : State, s.hostWaits → s.seq = .mode →
    (s.dstLen - s.md.pos < symWidth s.params.byteWidth s.md.mode →
      ∃ t, step s = .next t ∧ t.seq = .idle ∧ t.status.done = true ∧ t.status.ok = true ∧ t.md = s.md) ∧
    (symWidth s.params.byteWidth s.md.mode ≤ s.dstLen - s.md.pos →
      memRead s.dstBit s.md.pos (symWidth s.params.byteWidth s.md.mode) < 2 ^ symWidth s.params.byteWidth s.md.mode ∧
      step s = exec (decodeSymbol s.md.mode (memRead s.dstBit s.md.pos (symWidth s.params.byteWidth s.md.mode)))
        { s.tick with md := { s.md with pos := s.md.pos + symWidth s.params.byteWidth s.md.mode } })

/-- The end of the loop publishes the message and the success (R121, R216): MSG takes OUT's characters, `MSG_LEN` their number, and
nothing else changes but `STATUS`. -/
def Obligations.LoopEndPublishesMessage : Prop :=
  ∀ s : State, s.hostWaits → s.seq = .mode → s.dstLen - s.md.pos < symWidth s.params.byteWidth s.md.mode →
    ∃ t, step s = .next t ∧
      t = { s.tick with
        msg := t.msg
        results := { s.results with msgLen := s.md.outLen }
        status := { s.status with msgValid := true, ok := true, cause := .noCause, stage := 3, busy := false, done := true }
        seq := .idle } ∧
      (∀ i, i < s.md.outLen → t.msgChar i = s.outChar i) ∧
      (∀ i, s.md.outLen ≤ i → t.msg.read i = s.msg.read i) ∧
      (s.Inv → t.status.corValid = true ∧ t.results.msgLen = s.md.outLen ∧ t.msgText = s.outText)

/-- Only a successful end, or hardware reset, writes MSG, `MSG_LEN` or `MSG_VALID` (R121, R217). -/
def Obligations.OnlySuccessWritesTheMessage : Prop :=
  ∀ s t : State, step s = .next t → ¬ s.messageKept t →
    (s.hostWaits ∧ s.seq = .mode ∧ s.dstLen - s.md.pos < symWidth s.params.byteWidth s.md.mode ∧ t.seq = .idle ∧ t.status.ok = true) ∨
    (∃ rest, s.due = some (.hardReset, rest))

/-- One turn of the symbol loop is the small step of R128 on (POS, MODE, REVERT, OUT). -/
def Obligations.SymbolTurnIsTheSmallStep : Prop :=
  ∀ s : State, s.hostWaits → s.seq = .mode →
    match autoStep s.params.byteWidth s.dstBits s.auto with
    | .done => ∃ t, step s = .next t ∧ t.seq = .idle ∧ t.status.ok = true ∧ t.auto = s.auto
    | .failed c =>
      ∃ t, step s = .next t ∧ t.seq = .idle ∧ t.status.ok = false ∧ t.status.cause = c ∧ t.outText = s.outText ∧ s.messageKept t
    | .next a =>
      ∃ t, step s = .next t ∧ t.seq = .mode ∧ t.auto = a ∧ t.dstBits = s.dstBits ∧ t.status = s.status ∧ s.messageKept t

/-- The revert (R118): it runs after the handler on every symbol that does not fail. A pending `some m` gives exactly the state that no
pending revert gives, but for MODE, which is `m`. -/
def Obligations.PendingRevertOverridesHandler : Prop :=
  ∀ (i : Instr) (s : State) (m : Mode), isSymbol i → isFailing i = false →
    ∃ t, exec i { s with md := { s.md with revert := none } } = .next t ∧
      exec i { s with md := { s.md with revert := some m } } = .next { t with md := { t.md with mode := m } }

/-- Steps 2 and 5 (R113, R119): PRIOR is the mode that read the symbol, LATCHED is 0 exactly for a shift, and REVERT is recomputed from
the two. -/
def Obligations.RevertIsRecomputed : Prop :=
  ∀ (i : Instr) (s : State), isSymbol i → isFailing i = false →
    ∃ t, exec i s = .next t ∧ t.md.prior = s.md.mode ∧ t.md.latched = !isShift i ∧
      t.md.revert = (if t.md.latched = true then none else some t.md.prior)

/-- A shift reverts exactly once (R124): the source's two streams, and any shift followed by any symbol that does not fail. -/
def Obligations.ShiftRevertsExactlyOnce : Prop :=
  (∀ s : State, s.md.mode = .upper → s.md.revert = none →
    (∃ t u, exec .uLL s = .next t ∧ t.md.mode = .lower ∧ t.md.revert = none ∧
      exec (.lCH 2) t = .next u ∧ t.outGrewBy u [97] ∧ u.md.mode = .lower ∧ u.md.revert = none) ∧
    (∃ t u, exec .uPS s = .next t ∧ t.md.mode = .punct ∧ t.md.latched = false ∧ t.md.revert = some .upper ∧
      exec .pCR t = .next u ∧ t.outGrewBy u [13] ∧ u.md.latched = true ∧ u.md.mode = .upper ∧ u.md.revert = none)) ∧
  (∀ (s : State) (i j : Instr), isShift i = true → isSymbol j → isFailing j = false →
    ∃ t u, exec i s = .next t ∧ exec j t = .next u ∧ u.md.mode = s.md.mode ∧ (isShift j = false → u.md.revert = none))

/-- The shifted symbol cannot change the mode (R125): a latch read under a shift has no effect; a shift read under `L.US` or `D.US` gives
a switch to UPPER one symbol late; PUNCT has no shift entries. -/
def Obligations.ShiftedSymbolCannotChangeMode : Prop :=
  (∀ (s : State) (i j : Instr),
    (i = .dPS ∧ j = .pUL) ∨ ((i = .lUS ∨ i = .dUS) ∧ (j = .uLL ∨ j = .uML ∨ j = .uDL)) →
    ∃ t u, exec i s = .next t ∧ exec j t = .next u ∧ u.md.mode = s.md.mode ∧ u.md.revert = none ∧ u.md.outLen = s.md.outLen) ∧
  (∀ (s : State) (i j k : Instr), (i = .lUS ∨ i = .dUS) → (j = .uPS ∨ j = .uBS) → s.md.revert = none → isSymbol k →
    isFailing k = false →
    ∃ t u x, exec i s = .next t ∧ t.md.mode = .upper ∧
      exec j t = .next u ∧ u.md.mode = s.md.mode ∧ u.md.revert = some .upper ∧
      exec k u = .next x ∧ x.md.mode = .upper ∧ (isShift k = false → x.md.revert = none)) ∧
  (∀ j : Instr, j.ctx = .symbol .punct → isShift j = false)

/-- Which mode changes a code word can make with no revert pending (R73): exactly the listed (source, shift or latch, target) triples, and
an entry that changes the mode appends nothing. -/
def Obligations.ModeChangesAreTheListedOnes : Prop :=
  let listed : List (Mode × Bool × Mode) :=
    [(.upper, false, .lower), (.upper, false, .mixed), (.upper, false, .digit), (.lower, false, .mixed), (.lower, false, .digit),
     (.mixed, false, .lower), (.mixed, false, .upper), (.mixed, false, .punct), (.punct, false, .upper), (.digit, false, .upper)] ++
    [(.upper, true, .punct), (.lower, true, .punct), (.mixed, true, .punct), (.digit, true, .punct), (.lower, true, .upper),
     (.digit, true, .upper), (.upper, true, .byte), (.lower, true, .byte), (.mixed, true, .byte)]
  (∀ (i : Instr) (s t : State), i.ctx = .symbol s.md.mode → s.md.revert = none → exec i s = .next t → t.md.mode ≠ s.md.mode →
    (s.md.mode, isShift i, t.md.mode) ∈ listed ∧ t.md.outLen = s.md.outLen ∧ t.out = s.out) ∧
  (∀ (s : State) (b : Bool) (m : Mode), s.md.revert = none → (s.md.mode, b, m) ∈ listed →
    ∃ (i : Instr) (t : State), i.wf s.params.byteWidth = true ∧ i.ctx = .symbol s.md.mode ∧ isShift i = b ∧
      exec i s = .next t ∧ t.md.mode = m)

/-- The code points the block can emit are 1 to 13, 23 to 27 and 32 to 127, each of them by some entry (R72, R43). -/
def Obligations.EmittedCodePoints : Prop :=
  (∀ (i : Instr) (s : State), i.wf s.params.byteWidth = true → isSymbol i → isFailing i = false →
    ∃ t cs, exec i s = .next t ∧ s.outGrewBy t cs ∧ cs.length ≤ 2 ∧
      ∀ c ∈ cs, (1 ≤ c.toNat ∧ c.toNat ≤ 13) ∨ (23 ≤ c.toNat ∧ c.toNat ≤ 27) ∨ (32 ≤ c.toNat ∧ c.toNat ≤ 127)) ∧
  (∀ n : Nat, (1 ≤ n ∧ n ≤ 13) ∨ (23 ≤ n ∧ n ≤ 27) ∨ (32 ≤ n ∧ n ≤ 127) →
    ∃ i : Instr, isSymbol i ∧ ∀ s : State, i.wf s.params.byteWidth = true ∧ ∃ t, exec i s = .next t ∧ s.outGrewBy t [BitVec.ofNat 8 n])

/-- Progress and the output bound (R123): a symbol that does not end the loop moves POS by at least 4, no symbol moves it past the end of
DST or appends more than two characters per five bits, the loop ends within a quarter of the bits left, and OUT never outgrows its
capacity. -/
def Obligations.SymbolLoopTerminatesWithinBounds : Prop :=
  (∀ s : State, s.hostWaits → s.symbolReady →
    ∃ t, step s = .next t ∧ (t.seq = .mode → s.md.pos + 4 ≤ t.md.pos) ∧ (s.md.pos ≤ s.dstLen → t.md.pos ≤ s.dstLen) ∧
      s.md.pos ≤ t.md.pos ∧ s.md.outLen ≤ t.md.outLen ∧ 5 * (t.md.outLen - s.md.outLen) ≤ 2 * (t.md.pos - s.md.pos)) ∧
  (∀ s : State, s.hostSilent → s.seq = .mode →
    ∃ n t, n ≤ (s.dstLen - s.md.pos) / 4 + 1 ∧ runFor n s = .next t ∧ t.seq = .idle ∧ t.status.done = true) ∧
  (∀ s : State, s.Inv → s.seq = .mode →
    s.md.outLen ≤ 2 * s.dstLen / 5 ∧ 2 * s.dstLen / 5 ≤ 2 * s.params.corCapBits / 5 ∧
      2 * s.params.corCapBits / 5 ≤ s.params.msgCap)

/-! ### The driver and the stages -/

/-- Accepting START (R212, R14). -/
def Obligations.StartIsAccepted : Prop :=
  ∀ (s : State) (rest : List HostMove), s.due = some (.writeReg (.ctrl 1), rest) → s.status.busy = false → s.status.fatal = false →
    step s = .next { s with
      host := rest
      seq := .checks
      status := { s.status with busy := true, done := false, ok := false, cause := .noCause, stage := 0, corValid := false } }

/-- A START that is not accepted, and a write of 0 to `CTRL`, change no state (R273, R14). -/
def Obligations.StartIsIgnored : Prop :=
  (∀ (s : State) (rest : List HostMove), s.due = some (.writeReg (.ctrl 1), rest) → (s.status.busy = true ∨ s.status.fatal = true) →
    step s = .next { s with host := rest }) ∧
  (∀ (s : State) (rest : List HostMove), s.due = some (.writeReg (.ctrl 0), rest) → step s = .next { s with host := rest })

/-- The checks, in their order (R213): the first that fails raises its fatal stop (R232); when all pass, stage 1 begins (R211). The
capacities are the parameters of R6, arguments that the model holds in `State.params` (log 1). -/
def Obligations.ChecksInOrder : Prop :=
  ∀ s : State, s.hostWaits → s.seq = .checks →
    let d := s.desc
    let fatal : Cause → State := fun c =>
      { s.tick with status := { s.status with cause := c, ok := false, fatal := true, busy := false, done := true }, seq := .idle }
    step s = .next (
      if d.wordBits.toNat ∉ [6, 8, 10, 12] then fatal .badWordBits
      else if d.dataLayers.toNat < 1 then fatal .badLayers
      else if d.rawLen ≠ d.capBits then fatal .rawLength
      else if d.msgWords > d.capWords then fatal .wordCounts
      else if d.capWords * d.wordBits.toNat > d.capBits then fatal .wordCounts
      else if d.capBits > s.params.rawCapBits ∨ d.capWords > s.params.wordCap ∨
          d.msgWords * d.wordBits.toNat > s.params.corCapBits then fatal .capacity
      else { s.tick with status := { s.status with stage := 1 }, seq := .split })

/-- SPLIT (R82, R45): word `i` of DW is the `i`-th `w`-bit word of RAW, most significant bit first; data are the first `m`, parity the
rest; nothing else changes. -/
def Obligations.SplitCutsRawIntoWords : Prop :=
  ∀ (s : State) (w : EccWidth), s.hostWaits → s.seq = .split → s.desc.wordBits.toNat = w.bits →
    ∃ t, step s = .next t ∧ t = { s.tick with dw := t.dw, seq := .correct } ∧
      (∀ i, i < s.desc.capWords →
        (t.dwWord i).toNat = memRead s.rawBit (i * w.bits) w.bits ∧ (t.dwWord i).toNat < 2 ^ w.bits) ∧
      (∀ i, s.desc.capWords ≤ i → t.dw.read i = s.dw.read i) ∧
      (s.desc.msgWords ≤ s.desc.capWords →
        (∀ i, (rsData w t i).toNat = memRead s.rawBit (i.val * w.bits) w.bits) ∧
        (∀ j, (rsParity w t j).toNat = memRead s.rawBit ((s.desc.msgWords + j.val) * w.bits) w.bits))

/-- CORRECT (R85, R87, R83): the corrector is asked with the width's fixed constant and the data and parity words; a success puts its words
into DW and its count into `TOTAL_ERRS`, a failure raises `ECC_UNCORRECTABLE`; nothing else changes. -/
def Obligations.CorrectTakesTheAnswer : Prop :=
  (gfConst .w6 = 67 ∧ gfConst .w8 = 301 ∧ gfConst .w10 = 1033 ∧ gfConst .w12 = 4201) ∧
  ∀ (s : State) (w : EccWidth), s.hostWaits → s.seq = .correct → s.desc.wordBits.toNat = w.bits →
    let m := s.desc.msgWords
    let data : Fin m → BitVec w.bits := fun i => (s.dwWord i.val).setWidth w.bits
    let parity : Fin (s.desc.capWords - m) → BitVec w.bits := fun j => (s.dwWord (m + j.val)).setWidth w.bits
    match Config.rs s.params.lenw w (gfConst w) data parity with
    | .ok data' count =>
      ∃ t, step s = .next t ∧ t = { s.tick with dw := t.dw, results := { s.results with totalErrs := count.toNat }, seq := .repack } ∧
        (∀ i : Fin m, (t.dwWord i.val).toNat = (data' i).toNat) ∧ (∀ i, m ≤ i → t.dw.read i = s.dw.read i)
    | .uncorrectable =>
      step s = .next { s.tick with
        status := { s.status with cause := .eccUncorrectable, ok := false, busy := false, done := true }
        seq := .idle }

/-- REPACK (R89, R46, R42): the data words into COR, most significant bit first, the unused bits of the last byte 0, `COR_LEN` and
`COR_VALID`; stage 2 begins; nothing else changes. R42 says that the unused bits are written 0 and not when: that REPACK does it is the
model's choice (log 14). -/
def Obligations.RepackWritesCorrectedBits : Prop :=
  ∀ (s : State) (w : EccWidth), s.hostWaits → s.seq = .repack → s.desc.wordBits.toNat = w.bits →
    (∀ i, i < s.desc.msgWords → (s.dwWord i).toNat < 2 ^ w.bits) →
    let len := s.desc.msgWords * w.bits
    ∃ t, step s = .next t ∧
      t = { s.tick with
        cor := t.cor
        results := { s.results with corLen := len }
        status := { s.status with corValid := true, stage := 2 }
        seq := .stripCheck } ∧
      (∀ i, i < s.desc.msgWords → memRead t.corBit (i * w.bits) w.bits = (s.dwWord i).toNat) ∧
      (∀ j, len ≤ j → j / 8 < (len + 7) / 8 → t.corBit j = false) ∧
      (∀ j, (len + 7) / 8 ≤ j / 8 → t.cor.read j = s.cor.read j)

/-- The stripper's precondition (R101): tested before any word is read, fatal if broken, with nothing written to DST; and no decode that
started through `CTRL.START` can break it, since the invariant rules it out. -/
def Obligations.StripperPrecondition : Prop :=
  ∀ (s : State) (w : EccWidth), s.hostWaits → s.seq = .stripCheck → s.desc.wordBits.toNat = w.bits →
    (s.results.corLen % w.bits ≠ 0 →
      step s = .next { s.tick with
        status := { s.status with cause := .stripLength, ok := false, fatal := true, busy := false, done := true }
        seq := .idle }) ∧
    (s.results.corLen % w.bits = 0 → step s = .next { s.tick with dstLen := 0, stripPos := 0, seq := .strip }) ∧
    (s.Inv → s.results.corLen % w.bits = 0)

/-- Between the stages (R211, R215, R129, R24): after the stripper's last word only `STAGE` becomes 3; then POS, MODE, REVERT, LATCHED and
`OUT_LEN` take their initial values and nothing else changes. -/
def Obligations.ModeDecodeStartsFresh : Prop :=
  (∀ (s : State) (w : EccWidth), s.hostWaits → s.seq = .strip → s.desc.wordBits.toNat = w.bits →
    s.results.corLen / w.bits ≤ s.stripPos →
    step s = .next { s.tick with status := { s.status with stage := 3 }, seq := .modeInit }) ∧
  (∀ s : State, s.hostWaits → s.seq = .modeInit →
    step s = .next { s.tick with
      md := { s.md with pos := 0, mode := .upper, revert := none, latched := true, outLen := 0 }
      seq := .mode })

/-! ### Status, causes, reset -/

/-- The word the host reads from `STATUS` (R13): each field at its bits, so that no two statuses read alike. -/
def Obligations.StatusWordLayout : Prop :=
  (∀ st : Status,
    st.word.getLsbD 0 = st.busy ∧ st.word.getLsbD 1 = st.done ∧ st.word.getLsbD 2 = st.ok ∧ st.word.getLsbD 3 = st.fatal ∧
    st.word.getLsbD 4 = st.corValid ∧ st.word.getLsbD 5 = st.msgValid ∧
    st.word.extractLsb' 6 4 = st.cause.code ∧ st.word.extractLsb' 10 2 = st.stage) ∧
  (∀ st st' : Status, st.word = st'.word → st = st')

/-- The cause codes (R233), and bit 3 of a code is 1 exactly for the fatal causes. -/
def Obligations.CauseCodes : Prop :=
  Cause.noCause.code = 0 ∧ Cause.eccUncorrectable.code = 1 ∧ Cause.flgUnsupported.code = 2 ∧ Cause.byteUnsupported.code = 3 ∧
  Cause.badWordBits.code = 8 ∧ Cause.stripLength.code = 9 ∧ Cause.badLayers.code = 10 ∧ Cause.rawLength.code = 11 ∧
  Cause.wordCounts.code = 12 ∧ Cause.capacity.code = 13 ∧
  (∀ c : Cause, c.code.getLsbD 3 = true ↔ c ∉ [.noCause, .eccUncorrectable, .flgUnsupported, .byteUnsupported])

/-- The values R26 gives for hardware reset: registers and status 0, MODE UPPER, REVERT none, LATCHED 1, POS and `OUT_LEN` 0, no buffer
element with a value; and a START before a descriptor is loaded ends in `Fatal(BAD_WORD_BITS)`. -/
def Obligations.ResetValues : Prop :=
  State.reset.desc = { dataLayers := 0, wordBits := 0, msgWords := 0, capWords := 0, capBits := 0, rawLen := 0 } ∧
  State.reset.results = { corLen := 0, totalErrs := 0, msgLen := 0 } ∧
  State.reset.status.word = 0 ∧
  State.reset.md.mode = .upper ∧ State.reset.md.revert = none ∧ State.reset.md.latched = true ∧
  State.reset.md.pos = 0 ∧ State.reset.md.outLen = 0 ∧
  (∀ i, State.reset.raw.read i = none ∧ State.reset.dw.read i = none ∧ State.reset.cor.read i = none ∧
    State.reset.dst.read i = none ∧ State.reset.out.read i = none ∧ State.reset.msg.read i = none) ∧
  (∃ t, runFor 2 { State.reset with host := [{ after := 0, op := .writeReg (.ctrl 1) }] } = .next t ∧
    t.seq = .idle ∧ t.status.fatal = true ∧ t.status.cause = .badWordBits)

/-- Hardware reset (R261) from any state: every register at its reset value, no buffer element with a value, the block idle; it is the
only step that clears `FATAL`; and an idle block starts only on a write of 1 to `CTRL`. -/
def Obligations.HardwareReset : Prop :=
  (∀ (s : State) (rest : List HostMove), s.due = some (.hardReset, rest) →
    ∃ t, step s = .next t ∧
      t.desc = { dataLayers := 0, wordBits := 0, msgWords := 0, capWords := 0, capBits := 0, rawLen := 0 } ∧
      t.results = { corLen := 0, totalErrs := 0, msgLen := 0 } ∧ t.status.word = 0 ∧
      t.md.mode = .upper ∧ t.md.revert = none ∧ t.md.latched = true ∧ t.md.pos = 0 ∧ t.md.outLen = 0 ∧
      (∀ i, t.raw.read i = none ∧ t.dw.read i = none ∧ t.cor.read i = none ∧ t.dst.read i = none ∧ t.out.read i = none ∧
        t.msg.read i = none) ∧
      t.seq = .idle) ∧
  (∀ s t : State, step s = .next t → s.status.fatal = true → t.status.fatal = false → ∃ rest, s.due = some (.hardReset, rest)) ∧
  (∀ s t : State, step s = .next t → s.seq = .idle → t.seq ≠ .idle → ∃ rest, s.due = some (.writeReg (.ctrl 1), rest))

/-- Between decodes the block is idle and keeps all state (R247). The host's clock, the model's own (log 5), goes on: the first move still
to come is one step nearer, the other moves stay. -/
def Obligations.IdleBlockKeepsState : Prop :=
  ∀ s : State, s.hostWaits → s.seq = .idle →
    step s = .next s.tick ∧
    (s.host = [] → s.tick = s) ∧
    (∀ n op rest, s.host = { after := n + 1, op := op } :: rest → s.tick = { s with host := { after := n, op := op } :: rest })

/-! ### The host -/

/-- A write of a descriptor register while the block is not busy is stored as written, whatever the value of the register's width, and
changes nothing else (R11). A value on the port that is wider than `LENW` loses its high bits, the model's choice (log 17). -/
def Obligations.HostWritesAreStored : Prop :=
  ∀ (s : State) (rest : List HostMove), s.status.busy = false →
    (∀ v, s.due = some (.writeReg (.dataLayers v), rest) →
      step s = .next { s with host := rest, desc := { s.desc with dataLayers := v } }) ∧
    (∀ v, s.due = some (.writeReg (.wordBits v), rest) →
      step s = .next { s with host := rest, desc := { s.desc with wordBits := v } }) ∧
    (∀ v, s.due = some (.writeReg (.msgWords v), rest) →
      step s = .next { s with
        host := rest
        desc := { s.desc with msgWords := if v < 2 ^ s.params.lenw then v else v % 2 ^ s.params.lenw } }) ∧
    (∀ v, s.due = some (.writeReg (.capWords v), rest) →
      step s = .next { s with
        host := rest
        desc := { s.desc with capWords := if v < 2 ^ s.params.lenw then v else v % 2 ^ s.params.lenw } }) ∧
    (∀ v, s.due = some (.writeReg (.capBits v), rest) →
      step s = .next { s with
        host := rest
        desc := { s.desc with capBits := if v < 2 ^ s.params.lenw then v else v % 2 ^ s.params.lenw } }) ∧
    (∀ v, s.due = some (.writeReg (.rawLen v), rest) →
      step s = .next { s with
        host := rest
        desc := { s.desc with rawLen := if v < 2 ^ s.params.lenw then v else v % 2 ^ s.params.lenw } })

/-- A register read while the block is not busy gives the register's value, `CTRL` giving 0, and changes nothing else (R11). The port the
value arrives in is the model's own (log 6). -/
def Obligations.HostReadsRegisters : Prop :=
  ∀ (s : State) (r : Reg) (rest : List HostMove), s.status.busy = false → s.due = some (.readReg r, rest) →
    step s = .next { s with
      host := rest
      hostData := match r with
        | .dataLayers => s.desc.dataLayers.toNat
        | .wordBits => s.desc.wordBits.toNat
        | .msgWords => s.desc.msgWords
        | .capWords => s.desc.capWords
        | .capBits => s.desc.capBits
        | .rawLen => s.desc.rawLen
        | .corLen => s.results.corLen
        | .totalErrs => s.results.totalErrs
        | .msgLen => s.results.msgLen
        | .status => s.status.word.toNat
        | .ctrl => 0 }

/-- While `BUSY` = 1 a host write of a descriptor register or of RAW, or a host read of a register or buffer, is no move (R272, R52): the
model refuses it by name. Reading `STATUS` is always allowed, and so is reading `CTRL`, which gives 0 (R11): R272 does not name it and
the model allows it (log 7). The port the value arrives in is the model's own (log 6). -/
def Obligations.BusyHostAccessIsRefused : Prop :=
  ∀ (s : State) (rest : List HostMove), s.status.busy = true →
    (∀ w : RegWrite, (∀ v, w ≠ .ctrl v) → s.due = some (.writeReg w, rest) → step s = .refused .hostAccessWhileBusy) ∧
    (∀ i b, s.due = some (.writeRawByte i b, rest) → step s = .refused .hostAccessWhileBusy) ∧
    (∀ i, s.due = some (.readRawByte i, rest) ∨ s.due = some (.readCorByte i, rest) ∨ s.due = some (.readMsg i, rest) →
      step s = .refused .hostAccessWhileBusy) ∧
    (∀ r : Reg, r ≠ .status → r ≠ .ctrl → s.due = some (.readReg r, rest) → step s = .refused .hostAccessWhileBusy) ∧
    (s.due = some (.readReg .status, rest) → step s = .next { s with host := rest, hostData := s.status.word.toNat }) ∧
    (s.due = some (.readReg .ctrl, rest) → step s = .next { s with host := rest, hostData := 0 })

/-- Who writes what (R11, R21): only a host move changes the descriptor registers or RAW, and, hardware reset apart, only while the block
is not busy; no host move but hardware reset changes an output register, a buffer other than RAW, or the transient state; and no step
at all changes the parameters (R6, log 1). -/
def Obligations.HostAndBlockWriteTheirOwn : Prop :=
  (∀ s t : State, step s = .next t → (t.desc ≠ s.desc ∨ t.raw ≠ s.raw) →
    ∃ op rest, s.due = some (op, rest) ∧
      (op = .hardReset ∨ (s.status.busy = false ∧ ((∃ w, op = .writeReg w) ∨ ∃ i b, op = .writeRawByte i b)))) ∧
  (∀ (s t : State) (op : HostOp) (rest : List HostMove), s.due = some (op, rest) → op ≠ .hardReset → step s = .next t →
    t.results = s.results ∧ t.md = s.md ∧ t.dw = s.dw ∧ t.cor = s.cor ∧ t.dst = s.dst ∧ t.dstLen = s.dstLen ∧ t.out = s.out ∧
      t.msg = s.msg ∧ t.trace = s.trace) ∧
  (∀ s t : State, step s = .next t → t.params = s.params)

/-- The byte view (R42): bit `i` of RAW or COR is bit `7 - i mod 8` of byte `i / 8`, and a buffer of `L` bits has `ceil(L / 8)` bytes. A
RAW byte write changes those eight bits only, and reads give them. A byte beyond the buffer's capacity does not exist: the model's
fault (log 8). The port a read's value arrives in is the model's own (log 6). -/
def Obligations.ByteViewOfBitBuffers : Prop :=
  ∀ (s : State) (rest : List HostMove) (i : Nat), s.status.busy = false →
    (i < (s.params.rawCapBits + 7) / 8 →
      (∀ b, s.due = some (.writeRawByte i b, rest) →
        ∃ t, step s = .next t ∧ t = { s with host := rest, raw := t.raw } ∧
          ∀ j, t.rawBit j = if j / 8 = i then b.getLsbD (7 - j % 8) else s.rawBit j) ∧
      (s.due = some (.readRawByte i, rest) →
        ∃ v : BitVec 8, step s = .next { s with host := rest, hostData := v.toNat } ∧
          ∀ k, k < 8 → v.getLsbD (7 - k) = s.rawBit (8 * i + k))) ∧
    (i < (s.params.corCapBits + 7) / 8 → s.due = some (.readCorByte i, rest) →
      ∃ v : BitVec 8, step s = .next { s with host := rest, hostData := v.toNat } ∧
        ∀ k, k < 8 → v.getLsbD (7 - k) = s.corBit (8 * i + k)) ∧
    ((s.params.rawCapBits + 7) / 8 ≤ i →
      (∃ b, s.due = some (.writeRawByte i b, rest)) ∨ s.due = some (.readRawByte i, rest) → step s = .fault .noSuchElement) ∧
    ((s.params.corCapBits + 7) / 8 ≤ i → s.due = some (.readCorByte i, rest) → step s = .fault .noSuchElement)

/-- A MSG character read gives the character and changes nothing else (R21, R43). A character beyond `MSG_CAP` does not exist: the model's
fault (log 8). The port the value arrives in is the model's own (log 6). -/
def Obligations.HostReadsMessage : Prop :=
  ∀ (s : State) (rest : List HostMove) (i : Nat), s.status.busy = false → s.due = some (.readMsg i, rest) →
    (i < s.params.msgCap → step s = .next { s with host := rest, hostData := (s.msgChar i).toNat }) ∧
    (s.params.msgCap ≤ i → step s = .fault .noSuchElement)

/-- `MemRead` is the sum of R7 and `MemWrite` writes the bits of R7, so that reading back gives the value. -/
def Obligations.MemReadAndMemWrite : Prop :=
  (∀ (get : Nat → Bool) (p n : Nat),
    memRead get p n = (Finset.range n).sum fun j => (get (p + j)).toNat * 2 ^ (n - 1 - j)) ∧
  (∀ (b : Memory Bool) (p n v : Nat),
    (∀ j, j < n → (memWrite b p n v).read (p + j) = some (v.testBit (n - 1 - j))) ∧
    (∀ k, k < p ∨ p + n ≤ k → (memWrite b p n v).read k = b.read k)) ∧
  (∀ (b : Memory Bool) (free : Nat → Bool) (p n v : Nat), v < 2 ^ n →
    memRead (fun i => ((memWrite b p n v).read i).getD (free i)) p n = v)

/-! ### The stripper and the decode as functions -/

/-- The output length of the stripper (R107). -/
def Obligations.StripperOutputLength : Prop :=
  ∀ (w : EccWidth) (l dst : List Bool), stripPadding w l = .ok dst →
    dst.length + stuffedCount w l (l.length / w.bits) = l.length ∧
    l.length - l.length / w.bits ≤ dst.length ∧ dst.length ≤ l.length ∧ (l = [] → dst = [])

/-- The stripper is the identity on a stream without stuffed words, and applying it twice is not applying it once (R108). -/
def Obligations.StripperIdentityWithoutStuffing : Prop :=
  (∀ (w : EccWidth) (l : List Bool), l.length % w.bits = 0 →
    (∀ k, k < l.length / w.bits → wordAt w l k ≠ 1 ∧ wordAt w l k ≠ 2 ^ w.bits - 2) → stripPadding w l = .ok l) ∧
  (∃ (w : EccWidth) (l d : List Bool), stripPadding w l = .ok d ∧ stripPadding w d ≠ .ok d)

/-- The stripper's run is the function `StripPadding` of R102 on COR: from its check, in as many steps as there are words and two more,
DST holds exactly its output, and only DST, its length, `STAGE` and the driver's place have changed. -/
def Obligations.StripperRunIsStripPadding : Prop :=
  ∀ (s : State) (w : EccWidth), s.hostSilent → s.seq = .stripCheck → s.desc.wordBits.toNat = w.bits →
    s.results.corLen % w.bits = 0 →
    ∃ t, runFor (s.results.corLen / w.bits + 2) s = .next t ∧ stripPadding w s.corBits = .ok t.dstBits ∧
      t = { s with
        dst := t.dst
        dstLen := t.dstLen
        stripPos := t.stripPos
        status := { s.status with stage := 3 }
        seq := .modeInit }

/-- The Mode Decoder's run is the function `ModeDecode` of R122 on DST: it ends within `len(DST) / 4 + 2` steps, with the text in MSG, or
with the cause of the failure and the message as before. -/
def Obligations.ModeDecoderRunIsModeDecode : Prop :=
  ∀ s : State, s.hostSilent → s.seq = .modeInit →
    ∃ n t, n ≤ s.dstLen / 4 + 2 ∧ runFor n s = .next t ∧ t.seq = .idle ∧
      match modeDecode s.params.byteWidth s.dstBits with
      | .ok text =>
        t.status = { s.status with msgValid := true, ok := true, cause := .noCause, stage := 3, busy := false, done := true } ∧
          t.msgText = text ∧ t.results.msgLen = text.length
      | .error c =>
        t.status = { s.status with cause := c, ok := false, busy := false, done := true } ∧ s.messageKept t ∧ t.results = s.results

/-- The whole decode is the function `Decode` of R220 on the parameters, the descriptor, RAW and the corrector: from the checks, with the
status a START leaves, it ends in a number of steps bounded by the descriptor, in exactly the state that function's result describes, the
descriptor and RAW unchanged. -/
def Obligations.DecodeRunIsDecode : Prop :=
  ∀ s : State, s.hostSilent → s.seq = .checks → s.statusCoherent →
    ∃ n t, n ≤ s.desc.msgWords + s.desc.msgWords * s.desc.wordBits.toNat / 4 + 9 ∧ runFor n s = .next t ∧
      t.seq = .idle ∧ t.status.busy = false ∧ t.status.done = true ∧ s.endsWith t (decodeMarker s.params s.desc s.rawBit) ∧
      t.desc = s.desc ∧ t.raw = s.raw

/-- Determinism and no leaks (R219, R45): two blocks with the same parameters that start a decode with the same descriptor and the same
first `CAP_WORDS * WORD_BITS` bits of RAW come to the end of the decode at the same step, neither sooner, and to the same result,
whatever else their states hold. -/
def Obligations.DecodeDependsOnMarkerOnly : Prop :=
  ∀ s₁ s₂ : State, s₁.hostSilent → s₂.hostSilent → s₁.seq = .checks → s₂.seq = .checks → s₁.statusCoherent → s₂.statusCoherent →
    s₁.params = s₂.params → s₁.desc = s₂.desc →
    (∀ i, i < s₁.desc.capWords * s₁.desc.wordBits.toNat → s₁.rawBit i = s₂.rawBit i) →
    ∃ n t₁ t₂ r, runFor n s₁ = .next t₁ ∧ runFor n s₂ = .next t₂ ∧ t₁.seq = .idle ∧ t₂.seq = .idle ∧
      s₁.endsWith t₁ r ∧ s₂.endsWith t₂ r ∧
      ∀ k, k < n → (∀ u, runFor k s₁ = .next u → u.seq ≠ .idle) ∧ ∀ u, runFor k s₂ = .next u → u.seq ≠ .idle

/-! ### Invariants -/

/-- The invariant holds after reset. -/
def Obligations.ResetMeetsInvariant : Prop := State.reset.Inv

/-- Every step keeps the canonical form of the six buffers. -/
def Obligations.StepKeepsBuffersCanonical : Prop := ∀ s t : State, s.buffersWf → step s = .next t → t.buffersWf

/-- Every step keeps the invariant: canonical buffers within their capacities (R21, R44), a status that says what the block does and how
the last decode ended (R13, R230), a checked descriptor behind every running stage (R80, R213), lengths within their bounds (R46, R107,
R123), legal parameters (R6) and registers within `LENW` bits (R11). -/
def Obligations.StepKeepsInvariant : Prop := ∀ s t : State, s.Inv → step s = .next t → t.Inv

/-- The symbol stream is fixed while it is decoded (R53): DST changes only in the stripper's loop or by hardware reset, and a step of the
symbol loop leaves DST, COR and RAW as they are, so no symbol yet to be read changes. -/
def Obligations.SymbolStreamIsFixed : Prop :=
  (∀ s t : State, step s = .next t → t.dst ≠ s.dst → (s.hostWaits ∧ s.seq = .strip) ∨ ∃ rest, s.due = some (.hardReset, rest)) ∧
  (∀ s t : State, s.hostWaits → (s.seq = .modeInit ∨ s.seq = .mode) → step s = .next t →
    t.dst = s.dst ∧ t.dstLen = s.dstLen ∧ t.cor = s.cor ∧ t.raw = s.raw ∧
      ∀ p n, memRead t.dstBit p n = memRead s.dstBit p n)

/-- The trace sink alters nothing (R276, R252): a step with any other sink attached, or none, answers the same, but for the trace
itself. -/
def Obligations.TraceNeverAltersTheDecode : Prop :=
  ∀ (s : State) (sink : Option (List TraceLine)),
    match step s with
    | .next t => ∃ lines, step { s with trace := sink } = .next { t with trace := lines }
    | .fault r => step { s with trace := sink } = .fault r
    | .refused r => step { s with trace := sink } = .refused r

end
end

