-- ==== Sys2Proof/Laws/Bits.lean ====
section
/-! SUPPORT. Laws of `toBits` and `ofBits`: the two ways between a value and its bits agree. -/

namespace Sys2Proof

@[simp] theorem toBits_length (n v : Nat) : (toBits n v).length = n := by
  induction n with
  | zero => rfl
  | succ n ih => simp [toBits, ih]

@[simp] theorem toBits_zero (v : Nat) : toBits 0 v = [] := rfl

theorem toBits_getElem? (n v k : Nat) (h : k < n) : (toBits n v)[k]? = some (v.testBit (n - 1 - k)) := by
  induction n generalizing k with
  | zero => omega
  | succ n ih =>
    cases k with
    | zero => simp [toBits]
    | succ k =>
      have hk : k < n := by omega
      simp only [toBits, List.getElem?_cons_succ, ih k hk]
      congr 2
      omega

theorem ofBits_lt (l : List Bool) : ofBits l < 2 ^ l.length := by
  induction l with
  | nil => simp [ofBits]
  | cons b bs ih =>
    have hb : b.toNat * 2 ^ bs.length ≤ 2 ^ bs.length := by
      cases b <;> simp
    simp only [ofBits, List.length_cons, Nat.pow_succ]
    omega

theorem ofBits_toBits (n v : Nat) : ofBits (toBits n v) = v % 2 ^ n := by
  induction n with
  | zero => simp [ofBits, Nat.mod_one]
  | succ n ih =>
    simp only [toBits, ofBits, toBits_length, ih, Nat.toNat_testBit, Nat.mod_pow_succ]
    rw [Nat.mul_comm, Nat.add_comm]

theorem ofBits_toBits_of_lt {n v : Nat} (h : v < 2 ^ n) : ofBits (toBits n v) = v := by
  rw [ofBits_toBits, Nat.mod_eq_of_lt h]

theorem testBit_ofBits_cons (b : Bool) (bs : List Bool) : (ofBits (b :: bs)).testBit bs.length = b := by
  have h := ofBits_lt bs
  simp only [ofBits]
  cases b with
  | false => simpa using Nat.testBit_lt_two_pow h
  | true =>
    rw [Bool.toNat_true, Nat.one_mul, Nat.testBit_two_pow_add_eq, Nat.testBit_lt_two_pow h]
    rfl

theorem toBits_congr {n v w : Nat} (h : v % 2 ^ n = w % 2 ^ n) : toBits n v = toBits n w := by
  have aux : ∀ k, k < n → v.testBit k = w.testBit k := by
    intro k hk
    have := congrArg (fun x => Nat.testBit x k) h
    simpa [Nat.testBit_mod_two_pow, hk] using this
  clear h
  induction n with
  | zero => rfl
  | succ n ih =>
    simp only [toBits]
    rw [aux n (by omega), ih (fun k hk => aux k (by omega))]

theorem toBits_ofBits (l : List Bool) : toBits l.length (ofBits l) = l := by
  induction l with
  | nil => rfl
  | cons b bs ih =>
    have hv : ofBits (b :: bs) % 2 ^ bs.length = ofBits bs % 2 ^ bs.length := by
      simp [ofBits]
    rw [List.length_cons, toBits, testBit_ofBits_cons, toBits_congr hv, ih]

theorem toBits_ofBits' {l : List Bool} {n : Nat} (h : l.length = n) : toBits n (ofBits l) = l := by
  subst h
  exact toBits_ofBits l

end Sys2Proof
end

