-- ==== Sys2Proof/Laws/Memory.lean ====
section
/-! SUPPORT. Laws of the buffers: read after write, and that every write keeps the canonical form and the capacity. -/

namespace Sys2Proof.Machine

variable {α : Type}

@[simp] theorem Memory.read_nil (i : Nat) : Memory.read ([] : Memory α) i = none := rfl

theorem Memory.read_write (b : Memory α) (i j : Nat) (a : α) :
    (b.write i a).read j = if i = j then some a else b.read j := by
  induction b with
  | nil => simp [Memory.write, Memory.read]
  | cons e rest ih =>
    obtain ⟨k, c⟩ := e
    by_cases h1 : i < k
    · simp [Memory.write, Memory.read, h1]
    · by_cases h2 : i = k
      · subst h2
        by_cases h3 : i = j <;> simp [Memory.write, Memory.read, h3]
      · by_cases h3 : i = j
        · subst h3
          have hk : ¬ k = i := fun h => h2 h.symm
          simp [Memory.write, Memory.read, h1, h2, hk, ih]
        · simp [Memory.write, Memory.read, h1, h2, h3, ih]

@[simp] theorem Memory.read_write_same (b : Memory α) (i : Nat) (a : α) : (b.write i a).read i = some a := by
  simp [Memory.read_write]

theorem Memory.read_write_other (b : Memory α) {i j : Nat} (a : α) (h : i ≠ j) : (b.write i a).read j = b.read j := by
  simp [Memory.read_write, h]

theorem Memory.risingFrom_write (b : Memory α) (lo i : Nat) (a : α) (hb : Memory.risingFrom lo b = true) (hi : lo < i) :
    Memory.risingFrom lo (b.write i a) = true := by
  induction b generalizing lo with
  | nil => simp [Memory.write, Memory.risingFrom, hi]
  | cons e rest ih =>
    obtain ⟨k, c⟩ := e
    simp only [Memory.risingFrom, Bool.and_eq_true, decide_eq_true_eq] at hb
    by_cases h1 : i < k
    · simp [Memory.write, Memory.risingFrom, h1, hi, hb.2]
    · by_cases h2 : i = k
      · subst h2
        simp [Memory.write, Memory.risingFrom, hi, hb.2]
      · have := ih k hb.2 (by omega)
        simp [Memory.write, Memory.risingFrom, h1, h2, hb.1, this]

theorem Memory.wf_write (b : Memory α) (i : Nat) (a : α) (hb : b.wf = true) : (b.write i a).wf = true := by
  cases b with
  | nil => rfl
  | cons e rest =>
    obtain ⟨k, c⟩ := e
    simp only [Memory.wf] at hb
    by_cases h1 : i < k
    · simp [Memory.write, Memory.wf, Memory.risingFrom, h1, hb]
    · by_cases h2 : i = k
      · subst h2
        simp [Memory.write, Memory.wf, hb]
      · have := Memory.risingFrom_write rest k i a hb (by omega)
        simp [Memory.write, Memory.wf, h1, h2, this]

theorem Memory.below_write {cap : Nat} (b : Memory α) (i : Nat) (a : α) (hb : b.below cap = true) (hi : i < cap) :
    (b.write i a).below cap = true := by
  induction b with
  | nil => simp [Memory.write, Memory.below, hi]
  | cons e rest ih =>
    obtain ⟨k, c⟩ := e
    simp only [Memory.below, List.all_cons, Bool.and_eq_true] at hb
    by_cases h1 : i < k
    · simpa [Memory.write, Memory.below, h1, hi] using hb
    · by_cases h2 : i = k
      · subst h2
        simpa [Memory.write, Memory.below, hi] using hb.2
      · have h := ih hb.2
        simp only [Memory.below] at h
        simpa [Memory.write, Memory.below, h1, h2, h] using hb.1

/-! ### `MemWrite` and `MemRead` (R7) -/

theorem memWrite_read (b : Memory Bool) (p n v j : Nat) :
    (memWrite b p n v).read j = if p ≤ j ∧ j < p + n then some (v.testBit (p + n - 1 - j)) else b.read j := by
  induction n generalizing b p with
  | zero =>
    rw [if_neg (by omega)]
    rfl
  | succ n ih =>
    rw [memWrite, ih, Memory.read_write]
    by_cases h1 : p + 1 ≤ j ∧ j < p + 1 + n
    · rw [if_pos h1, if_pos (by omega), show p + 1 + n - 1 - j = p + (n + 1) - 1 - j by omega]
    · rw [if_neg h1]
      by_cases h2 : p = j
      · subst h2
        rw [if_pos rfl, if_pos (by omega), show p + (n + 1) - 1 - p = n by omega]
      · rw [if_neg h2, if_neg (by omega)]

theorem memWrite_wf (b : Memory Bool) (p n v : Nat) (hb : b.wf = true) : (memWrite b p n v).wf = true := by
  induction n generalizing b p with
  | zero => exact hb
  | succ n ih => exact ih _ _ (Memory.wf_write b p _ hb)

theorem memWrite_below {cap : Nat} (b : Memory Bool) (p n v : Nat) (hb : b.below cap = true) (h : p + n ≤ cap) :
    (memWrite b p n v).below cap = true := by
  induction n generalizing b p with
  | zero => exact hb
  | succ n ih => exact ih _ _ (Memory.below_write b p _ hb (by omega)) (by omega)

/-- What `MemWrite` wrote, as the bits of the value. -/
theorem memWrite_read_toBits (b : Memory Bool) (p n v k : Nat) (h : k < n) :
    (memWrite b p n v).read (p + k) = (toBits n v)[k]? := by
  rw [memWrite_read, toBits_getElem? n v k h]
  have h1 : p ≤ p + k ∧ p + k < p + n := by omega
  have h2 : p + n - 1 - (p + k) = n - 1 - k := by omega
  simp [h1, h2]

theorem memWrite_read_outside (b : Memory Bool) (p n v j : Nat) (h : j < p ∨ p + n ≤ j) :
    (memWrite b p n v).read j = b.read j := by
  rw [memWrite_read]
  have h1 : ¬ (p ≤ j ∧ j < p + n) := by omega
  simp [h1]

@[simp] theorem readBits_length (get : Nat → Bool) (p n : Nat) : (readBits get p n).length = n := by
  induction n generalizing p with
  | zero => rfl
  | succ n ih => simp [readBits, ih]

theorem readBits_getElem? (get : Nat → Bool) (p n k : Nat) (h : k < n) : (readBits get p n)[k]? = some (get (p + k)) := by
  induction n generalizing p k with
  | zero => omega
  | succ n ih =>
    cases k with
    | zero => simp [readBits]
    | succ k =>
      have h3 : p + 1 + k = p + (k + 1) := by omega
      simp only [readBits, List.getElem?_cons_succ, ih (p + 1) k (by omega), h3]

theorem readBits_congr {f g : Nat → Bool} {p n : Nat} (h : ∀ k, k < n → f (p + k) = g (p + k)) :
    readBits f p n = readBits g p n := by
  induction n generalizing p with
  | zero => rfl
  | succ n ih =>
    have h0 := h 0 (by omega)
    have ht : ∀ k, k < n → f (p + 1 + k) = g (p + 1 + k) := by
      intro k hk
      have := h (k + 1) (by omega)
      rwa [show p + (k + 1) = p + 1 + k by omega] at this
    simp only [Nat.add_zero] at h0
    simp [readBits, h0, ih ht]

theorem readBits_append (get : Nat → Bool) (p n k : Nat) :
    readBits get p (n + k) = readBits get p n ++ readBits get (p + n) k := by
  induction n generalizing p with
  | zero => simp [readBits]
  | succ n ih =>
    rw [show n + 1 + k = (n + k) + 1 by omega]
    simp only [readBits, ih (p + 1), List.cons_append]
    rw [show p + 1 + n = p + (n + 1) by omega]

/-- Taking and dropping bits of a sequence of bits read from a buffer. -/
theorem readBits_drop_take (get : Nat → Bool) (p n a k : Nat) (h : a + k ≤ n) :
    ((readBits get p n).drop a).take k = readBits get (p + a) k := by
  obtain ⟨r, rfl⟩ := Nat.exists_eq_add_of_le h
  rw [readBits_append, readBits_append]
  rw [List.append_assoc, List.drop_append_of_le_length (by simp), List.drop_of_length_le (by simp)]
  simp

theorem memRead_lt (get : Nat → Bool) (p n : Nat) : memRead get p n < 2 ^ n := by
  have h := ofBits_lt (readBits get p n)
  simpa [memRead] using h

/-- Reading back what was written (R7). -/
theorem readBits_eq_toBits {get : Nat → Bool} {p n v : Nat} (h : ∀ k, k < n → some (get (p + k)) = (toBits n v)[k]?) :
    readBits get p n = toBits n v := by
  apply List.ext_getElem?
  intro k
  by_cases hk : k < n
  · rw [readBits_getElem? _ _ _ _ hk, h k hk]
  · rw [List.getElem?_eq_none (by simp; omega), List.getElem?_eq_none (by simp; omega)]

/-! ### Loops of writes -/

theorem writeFrom_read (f : Nat → α) (n : Nat) (b : Memory α) (i : Nat) :
    (writeFrom f n b).read i = if i < n then some (f i) else b.read i := by
  induction n with
  | zero => simp [writeFrom]
  | succ n ih =>
    rw [writeFrom, Memory.read_write, ih]
    by_cases h : n = i
    · subst h
      simp
    · by_cases h2 : i < n
      · have h3 : i < n + 1 := by omega
        simp [h, h2, h3]
      · have h3 : ¬ i < n + 1 := by omega
        simp [h, h2, h3]

theorem writeFrom_wf (f : Nat → α) (n : Nat) (b : Memory α) (hb : b.wf = true) : (writeFrom f n b).wf = true := by
  induction n with
  | zero => exact hb
  | succ n ih => exact Memory.wf_write _ _ _ ih

theorem writeFrom_below {cap : Nat} (f : Nat → α) (n : Nat) (b : Memory α) (hb : b.below cap = true) (h : n ≤ cap) :
    (writeFrom f n b).below cap = true := by
  induction n with
  | zero => exact hb
  | succ n ih => exact Memory.below_write _ _ _ (ih (by omega)) (by omega)

end Sys2Proof.Machine
end

