-- ==== Sys2Proof/Laws/State.lean ====
section
/-! SUPPORT. One lemma per field of State and named update, true by unfolding, so that no later proof unfolds a record update. -/

namespace Sys2Proof.Machine

variable (s : State)

/-! ### raiseFail -/

@[simp] theorem raiseFail_desc (c : Cause) : (raiseFail c s).desc = s.desc := rfl
@[simp] theorem raiseFail_results (c : Cause) : (raiseFail c s).results = s.results := rfl
@[simp] theorem raiseFail_status (c : Cause) : (raiseFail c s).status = s.status.fail c := rfl
@[simp] theorem raiseFail_md (c : Cause) : (raiseFail c s).md = s.md := rfl
@[simp] theorem raiseFail_raw (c : Cause) : (raiseFail c s).raw = s.raw := rfl
@[simp] theorem raiseFail_dw (c : Cause) : (raiseFail c s).dw = s.dw := rfl
@[simp] theorem raiseFail_cor (c : Cause) : (raiseFail c s).cor = s.cor := rfl
@[simp] theorem raiseFail_dst (c : Cause) : (raiseFail c s).dst = s.dst := rfl
@[simp] theorem raiseFail_dstLen (c : Cause) : (raiseFail c s).dstLen = s.dstLen := rfl
@[simp] theorem raiseFail_out (c : Cause) : (raiseFail c s).out = s.out := rfl
@[simp] theorem raiseFail_msg (c : Cause) : (raiseFail c s).msg = s.msg := rfl
@[simp] theorem raiseFail_trace (c : Cause) : (raiseFail c s).trace = s.trace := rfl
@[simp] theorem raiseFail_seq (c : Cause) : (raiseFail c s).seq = .idle := rfl
@[simp] theorem raiseFail_stripPos (c : Cause) : (raiseFail c s).stripPos = s.stripPos := rfl
@[simp] theorem raiseFail_epoch (c : Cause) : (raiseFail c s).epoch = s.epoch := rfl
@[simp] theorem raiseFail_host (c : Cause) : (raiseFail c s).host = s.host := rfl
@[simp] theorem raiseFail_hostData (c : Cause) : (raiseFail c s).hostData = s.hostData := rfl
@[simp] theorem raiseFail_params (c : Cause) : (raiseFail c s).params = s.params := rfl

/-! ### raiseFatal -/

@[simp] theorem raiseFatal_desc (c : Cause) : (raiseFatal c s).desc = s.desc := rfl
@[simp] theorem raiseFatal_results (c : Cause) : (raiseFatal c s).results = s.results := rfl
@[simp] theorem raiseFatal_status (c : Cause) : (raiseFatal c s).status = s.status.fatalStop c := rfl
@[simp] theorem raiseFatal_md (c : Cause) : (raiseFatal c s).md = s.md := rfl
@[simp] theorem raiseFatal_raw (c : Cause) : (raiseFatal c s).raw = s.raw := rfl
@[simp] theorem raiseFatal_dw (c : Cause) : (raiseFatal c s).dw = s.dw := rfl
@[simp] theorem raiseFatal_cor (c : Cause) : (raiseFatal c s).cor = s.cor := rfl
@[simp] theorem raiseFatal_dst (c : Cause) : (raiseFatal c s).dst = s.dst := rfl
@[simp] theorem raiseFatal_dstLen (c : Cause) : (raiseFatal c s).dstLen = s.dstLen := rfl
@[simp] theorem raiseFatal_out (c : Cause) : (raiseFatal c s).out = s.out := rfl
@[simp] theorem raiseFatal_msg (c : Cause) : (raiseFatal c s).msg = s.msg := rfl
@[simp] theorem raiseFatal_trace (c : Cause) : (raiseFatal c s).trace = s.trace := rfl
@[simp] theorem raiseFatal_seq (c : Cause) : (raiseFatal c s).seq = .idle := rfl
@[simp] theorem raiseFatal_stripPos (c : Cause) : (raiseFatal c s).stripPos = s.stripPos := rfl
@[simp] theorem raiseFatal_epoch (c : Cause) : (raiseFatal c s).epoch = s.epoch := rfl
@[simp] theorem raiseFatal_host (c : Cause) : (raiseFatal c s).host = s.host := rfl
@[simp] theorem raiseFatal_hostData (c : Cause) : (raiseFatal c s).hostData = s.hostData := rfl
@[simp] theorem raiseFatal_params (c : Cause) : (raiseFatal c s).params = s.params := rfl

/-! ### acceptStart -/

@[simp] theorem acceptStart_desc : (acceptStart s).desc = s.desc := rfl
@[simp] theorem acceptStart_results : (acceptStart s).results = s.results := rfl
@[simp] theorem acceptStart_status : (acceptStart s).status = s.status.start := rfl
@[simp] theorem acceptStart_md : (acceptStart s).md = s.md := rfl
@[simp] theorem acceptStart_raw : (acceptStart s).raw = s.raw := rfl
@[simp] theorem acceptStart_dw : (acceptStart s).dw = s.dw := rfl
@[simp] theorem acceptStart_cor : (acceptStart s).cor = s.cor := rfl
@[simp] theorem acceptStart_dst : (acceptStart s).dst = s.dst := rfl
@[simp] theorem acceptStart_dstLen : (acceptStart s).dstLen = s.dstLen := rfl
@[simp] theorem acceptStart_out : (acceptStart s).out = s.out := rfl
@[simp] theorem acceptStart_msg : (acceptStart s).msg = s.msg := rfl
@[simp] theorem acceptStart_trace : (acceptStart s).trace = s.trace := rfl
@[simp] theorem acceptStart_seq : (acceptStart s).seq = .checks := rfl
@[simp] theorem acceptStart_stripPos : (acceptStart s).stripPos = s.stripPos := rfl
@[simp] theorem acceptStart_epoch : (acceptStart s).epoch = s.epoch := rfl
@[simp] theorem acceptStart_host : (acceptStart s).host = s.host := rfl
@[simp] theorem acceptStart_hostData : (acceptStart s).hostData = s.hostData := rfl
@[simp] theorem acceptStart_params : (acceptStart s).params = s.params := rfl

/-! ### beginSymbol -/

@[simp] theorem beginSymbol_desc : (beginSymbol s).desc = s.desc := rfl
@[simp] theorem beginSymbol_results : (beginSymbol s).results = s.results := rfl
@[simp] theorem beginSymbol_status : (beginSymbol s).status = s.status := rfl
@[simp] theorem beginSymbol_md : (beginSymbol s).md = s.md.begin := rfl
@[simp] theorem beginSymbol_raw : (beginSymbol s).raw = s.raw := rfl
@[simp] theorem beginSymbol_dw : (beginSymbol s).dw = s.dw := rfl
@[simp] theorem beginSymbol_cor : (beginSymbol s).cor = s.cor := rfl
@[simp] theorem beginSymbol_dst : (beginSymbol s).dst = s.dst := rfl
@[simp] theorem beginSymbol_dstLen : (beginSymbol s).dstLen = s.dstLen := rfl
@[simp] theorem beginSymbol_out : (beginSymbol s).out = s.out := rfl
@[simp] theorem beginSymbol_msg : (beginSymbol s).msg = s.msg := rfl
@[simp] theorem beginSymbol_trace : (beginSymbol s).trace = s.trace := rfl
@[simp] theorem beginSymbol_seq : (beginSymbol s).seq = s.seq := rfl
@[simp] theorem beginSymbol_stripPos : (beginSymbol s).stripPos = s.stripPos := rfl
@[simp] theorem beginSymbol_epoch : (beginSymbol s).epoch = s.epoch := rfl
@[simp] theorem beginSymbol_host : (beginSymbol s).host = s.host := rfl
@[simp] theorem beginSymbol_hostData : (beginSymbol s).hostData = s.hostData := rfl
@[simp] theorem beginSymbol_params : (beginSymbol s).params = s.params := rfl

/-! ### appendChar -/

@[simp] theorem appendChar_desc (c : Char8) : (appendChar c s).desc = s.desc := rfl
@[simp] theorem appendChar_results (c : Char8) : (appendChar c s).results = s.results := rfl
@[simp] theorem appendChar_status (c : Char8) : (appendChar c s).status = s.status := rfl
@[simp] theorem appendChar_md (c : Char8) : (appendChar c s).md = { s.md with outLen := s.md.outLen + 1 } := rfl
@[simp] theorem appendChar_raw (c : Char8) : (appendChar c s).raw = s.raw := rfl
@[simp] theorem appendChar_dw (c : Char8) : (appendChar c s).dw = s.dw := rfl
@[simp] theorem appendChar_cor (c : Char8) : (appendChar c s).cor = s.cor := rfl
@[simp] theorem appendChar_dst (c : Char8) : (appendChar c s).dst = s.dst := rfl
@[simp] theorem appendChar_dstLen (c : Char8) : (appendChar c s).dstLen = s.dstLen := rfl
@[simp] theorem appendChar_out (c : Char8) : (appendChar c s).out = s.out.write s.md.outLen c := rfl
@[simp] theorem appendChar_msg (c : Char8) : (appendChar c s).msg = s.msg := rfl
@[simp] theorem appendChar_trace (c : Char8) : (appendChar c s).trace = s.trace := rfl
@[simp] theorem appendChar_seq (c : Char8) : (appendChar c s).seq = s.seq := rfl
@[simp] theorem appendChar_stripPos (c : Char8) : (appendChar c s).stripPos = s.stripPos := rfl
@[simp] theorem appendChar_epoch (c : Char8) : (appendChar c s).epoch = s.epoch := rfl
@[simp] theorem appendChar_host (c : Char8) : (appendChar c s).host = s.host := rfl
@[simp] theorem appendChar_hostData (c : Char8) : (appendChar c s).hostData = s.hostData := rfl
@[simp] theorem appendChar_params (c : Char8) : (appendChar c s).params = s.params := rfl

/-! ### latchTo -/

@[simp] theorem latchTo_desc (m : Mode) : (latchTo m s).desc = s.desc := rfl
@[simp] theorem latchTo_results (m : Mode) : (latchTo m s).results = s.results := rfl
@[simp] theorem latchTo_status (m : Mode) : (latchTo m s).status = s.status := rfl
@[simp] theorem latchTo_md (m : Mode) : (latchTo m s).md = s.md.latch m := rfl
@[simp] theorem latchTo_raw (m : Mode) : (latchTo m s).raw = s.raw := rfl
@[simp] theorem latchTo_dw (m : Mode) : (latchTo m s).dw = s.dw := rfl
@[simp] theorem latchTo_cor (m : Mode) : (latchTo m s).cor = s.cor := rfl
@[simp] theorem latchTo_dst (m : Mode) : (latchTo m s).dst = s.dst := rfl
@[simp] theorem latchTo_dstLen (m : Mode) : (latchTo m s).dstLen = s.dstLen := rfl
@[simp] theorem latchTo_out (m : Mode) : (latchTo m s).out = s.out := rfl
@[simp] theorem latchTo_msg (m : Mode) : (latchTo m s).msg = s.msg := rfl
@[simp] theorem latchTo_trace (m : Mode) : (latchTo m s).trace = s.trace := rfl
@[simp] theorem latchTo_seq (m : Mode) : (latchTo m s).seq = s.seq := rfl
@[simp] theorem latchTo_stripPos (m : Mode) : (latchTo m s).stripPos = s.stripPos := rfl
@[simp] theorem latchTo_epoch (m : Mode) : (latchTo m s).epoch = s.epoch := rfl
@[simp] theorem latchTo_host (m : Mode) : (latchTo m s).host = s.host := rfl
@[simp] theorem latchTo_hostData (m : Mode) : (latchTo m s).hostData = s.hostData := rfl
@[simp] theorem latchTo_params (m : Mode) : (latchTo m s).params = s.params := rfl

/-! ### shiftTo -/

@[simp] theorem shiftTo_desc (m : Mode) : (shiftTo m s).desc = s.desc := rfl
@[simp] theorem shiftTo_results (m : Mode) : (shiftTo m s).results = s.results := rfl
@[simp] theorem shiftTo_status (m : Mode) : (shiftTo m s).status = s.status := rfl
@[simp] theorem shiftTo_md (m : Mode) : (shiftTo m s).md = s.md.shift m := rfl
@[simp] theorem shiftTo_raw (m : Mode) : (shiftTo m s).raw = s.raw := rfl
@[simp] theorem shiftTo_dw (m : Mode) : (shiftTo m s).dw = s.dw := rfl
@[simp] theorem shiftTo_cor (m : Mode) : (shiftTo m s).cor = s.cor := rfl
@[simp] theorem shiftTo_dst (m : Mode) : (shiftTo m s).dst = s.dst := rfl
@[simp] theorem shiftTo_dstLen (m : Mode) : (shiftTo m s).dstLen = s.dstLen := rfl
@[simp] theorem shiftTo_out (m : Mode) : (shiftTo m s).out = s.out := rfl
@[simp] theorem shiftTo_msg (m : Mode) : (shiftTo m s).msg = s.msg := rfl
@[simp] theorem shiftTo_trace (m : Mode) : (shiftTo m s).trace = s.trace := rfl
@[simp] theorem shiftTo_seq (m : Mode) : (shiftTo m s).seq = s.seq := rfl
@[simp] theorem shiftTo_stripPos (m : Mode) : (shiftTo m s).stripPos = s.stripPos := rfl
@[simp] theorem shiftTo_epoch (m : Mode) : (shiftTo m s).epoch = s.epoch := rfl
@[simp] theorem shiftTo_host (m : Mode) : (shiftTo m s).host = s.host := rfl
@[simp] theorem shiftTo_hostData (m : Mode) : (shiftTo m s).hostData = s.hostData := rfl
@[simp] theorem shiftTo_params (m : Mode) : (shiftTo m s).params = s.params := rfl

/-! ### endSymbol -/

@[simp] theorem endSymbol_desc (v : Nat) : (endSymbol v s).desc = s.desc := rfl
@[simp] theorem endSymbol_results (v : Nat) : (endSymbol v s).results = s.results := rfl
@[simp] theorem endSymbol_status (v : Nat) : (endSymbol v s).status = s.status := rfl
@[simp] theorem endSymbol_md (v : Nat) : (endSymbol v s).md = s.md.applyRevert.reschedule := rfl
@[simp] theorem endSymbol_raw (v : Nat) : (endSymbol v s).raw = s.raw := rfl
@[simp] theorem endSymbol_dw (v : Nat) : (endSymbol v s).dw = s.dw := rfl
@[simp] theorem endSymbol_cor (v : Nat) : (endSymbol v s).cor = s.cor := rfl
@[simp] theorem endSymbol_dst (v : Nat) : (endSymbol v s).dst = s.dst := rfl
@[simp] theorem endSymbol_dstLen (v : Nat) : (endSymbol v s).dstLen = s.dstLen := rfl
@[simp] theorem endSymbol_out (v : Nat) : (endSymbol v s).out = s.out := rfl
@[simp] theorem endSymbol_msg (v : Nat) : (endSymbol v s).msg = s.msg := rfl
@[simp] theorem endSymbol_trace (v : Nat) : (endSymbol v s).trace = s.trace.map fun l => l ++ [{ mode := s.md.applyRevert.reschedule.prior, latched := s.md.applyRevert.reschedule.latched, value := v }] := rfl
@[simp] theorem endSymbol_seq (v : Nat) : (endSymbol v s).seq = s.seq := rfl
@[simp] theorem endSymbol_stripPos (v : Nat) : (endSymbol v s).stripPos = s.stripPos := rfl
@[simp] theorem endSymbol_epoch (v : Nat) : (endSymbol v s).epoch = s.epoch := rfl
@[simp] theorem endSymbol_host (v : Nat) : (endSymbol v s).host = s.host := rfl
@[simp] theorem endSymbol_hostData (v : Nat) : (endSymbol v s).hostData = s.hostData := rfl
@[simp] theorem endSymbol_params (v : Nat) : (endSymbol v s).params = s.params := rfl

/-! ### appendBits -/

@[simp] theorem appendBits_desc (n v : Nat) : (appendBits n v s).desc = s.desc := rfl
@[simp] theorem appendBits_results (n v : Nat) : (appendBits n v s).results = s.results := rfl
@[simp] theorem appendBits_status (n v : Nat) : (appendBits n v s).status = s.status := rfl
@[simp] theorem appendBits_md (n v : Nat) : (appendBits n v s).md = s.md := rfl
@[simp] theorem appendBits_raw (n v : Nat) : (appendBits n v s).raw = s.raw := rfl
@[simp] theorem appendBits_dw (n v : Nat) : (appendBits n v s).dw = s.dw := rfl
@[simp] theorem appendBits_cor (n v : Nat) : (appendBits n v s).cor = s.cor := rfl
@[simp] theorem appendBits_dst (n v : Nat) : (appendBits n v s).dst = memWrite s.dst s.dstLen n v := rfl
@[simp] theorem appendBits_dstLen (n v : Nat) : (appendBits n v s).dstLen = s.dstLen + n := rfl
@[simp] theorem appendBits_out (n v : Nat) : (appendBits n v s).out = s.out := rfl
@[simp] theorem appendBits_msg (n v : Nat) : (appendBits n v s).msg = s.msg := rfl
@[simp] theorem appendBits_trace (n v : Nat) : (appendBits n v s).trace = s.trace := rfl
@[simp] theorem appendBits_seq (n v : Nat) : (appendBits n v s).seq = s.seq := rfl
@[simp] theorem appendBits_stripPos (n v : Nat) : (appendBits n v s).stripPos = s.stripPos := rfl
@[simp] theorem appendBits_epoch (n v : Nat) : (appendBits n v s).epoch = s.epoch := rfl
@[simp] theorem appendBits_host (n v : Nat) : (appendBits n v s).host = s.host := rfl
@[simp] theorem appendBits_hostData (n v : Nat) : (appendBits n v s).hostData = s.hostData := rfl
@[simp] theorem appendBits_params (n v : Nat) : (appendBits n v s).params = s.params := rfl

/-! ### splitStage -/

@[simp] theorem splitStage_desc (w : EccWidth) : (splitStage w s).desc = s.desc := rfl
@[simp] theorem splitStage_results (w : EccWidth) : (splitStage w s).results = s.results := rfl
@[simp] theorem splitStage_status (w : EccWidth) : (splitStage w s).status = s.status := rfl
@[simp] theorem splitStage_md (w : EccWidth) : (splitStage w s).md = s.md := rfl
@[simp] theorem splitStage_raw (w : EccWidth) : (splitStage w s).raw = s.raw := rfl
@[simp] theorem splitStage_dw (w : EccWidth) : (splitStage w s).dw = writeFrom (fun i => BitVec.ofNat 12 (s.rawWord w i)) s.desc.capWords s.dw := rfl
@[simp] theorem splitStage_cor (w : EccWidth) : (splitStage w s).cor = s.cor := rfl
@[simp] theorem splitStage_dst (w : EccWidth) : (splitStage w s).dst = s.dst := rfl
@[simp] theorem splitStage_dstLen (w : EccWidth) : (splitStage w s).dstLen = s.dstLen := rfl
@[simp] theorem splitStage_out (w : EccWidth) : (splitStage w s).out = s.out := rfl
@[simp] theorem splitStage_msg (w : EccWidth) : (splitStage w s).msg = s.msg := rfl
@[simp] theorem splitStage_trace (w : EccWidth) : (splitStage w s).trace = s.trace := rfl
@[simp] theorem splitStage_seq (w : EccWidth) : (splitStage w s).seq = .correct := rfl
@[simp] theorem splitStage_stripPos (w : EccWidth) : (splitStage w s).stripPos = s.stripPos := rfl
@[simp] theorem splitStage_epoch (w : EccWidth) : (splitStage w s).epoch = s.epoch := rfl
@[simp] theorem splitStage_host (w : EccWidth) : (splitStage w s).host = s.host := rfl
@[simp] theorem splitStage_hostData (w : EccWidth) : (splitStage w s).hostData = s.hostData := rfl
@[simp] theorem splitStage_params (w : EccWidth) : (splitStage w s).params = s.params := rfl

/-! ### repackStage -/

@[simp] theorem repackStage_desc (w : EccWidth) : (repackStage w s).desc = s.desc := rfl
@[simp] theorem repackStage_results (w : EccWidth) : (repackStage w s).results = { s.results with corLen := s.dataCount * w.bits } := rfl
@[simp] theorem repackStage_status (w : EccWidth) : (repackStage w s).status = s.status.corrected.atStage 2 := rfl
@[simp] theorem repackStage_md (w : EccWidth) : (repackStage w s).md = s.md := rfl
@[simp] theorem repackStage_raw (w : EccWidth) : (repackStage w s).raw = s.raw := rfl
@[simp] theorem repackStage_dw (w : EccWidth) : (repackStage w s).dw = s.dw := rfl
@[simp] theorem repackStage_cor (w : EccWidth) : (repackStage w s).cor = memWrite (repackWords w s.dwWord s.dataCount s.cor) (s.dataCount * w.bits) (padCount (s.dataCount * w.bits)) 0 := rfl
@[simp] theorem repackStage_dst (w : EccWidth) : (repackStage w s).dst = s.dst := rfl
@[simp] theorem repackStage_dstLen (w : EccWidth) : (repackStage w s).dstLen = s.dstLen := rfl
@[simp] theorem repackStage_out (w : EccWidth) : (repackStage w s).out = s.out := rfl
@[simp] theorem repackStage_msg (w : EccWidth) : (repackStage w s).msg = s.msg := rfl
@[simp] theorem repackStage_trace (w : EccWidth) : (repackStage w s).trace = s.trace := rfl
@[simp] theorem repackStage_seq (w : EccWidth) : (repackStage w s).seq = .stripCheck := rfl
@[simp] theorem repackStage_stripPos (w : EccWidth) : (repackStage w s).stripPos = s.stripPos := rfl
@[simp] theorem repackStage_epoch (w : EccWidth) : (repackStage w s).epoch = s.epoch := rfl
@[simp] theorem repackStage_host (w : EccWidth) : (repackStage w s).host = s.host := rfl
@[simp] theorem repackStage_hostData (w : EccWidth) : (repackStage w s).hostData = s.hostData := rfl
@[simp] theorem repackStage_params (w : EccWidth) : (repackStage w s).params = s.params := rfl

/-! ### leaveStrip -/

@[simp] theorem leaveStrip_desc : (leaveStrip s).desc = s.desc := rfl
@[simp] theorem leaveStrip_results : (leaveStrip s).results = s.results := rfl
@[simp] theorem leaveStrip_status : (leaveStrip s).status = s.status.atStage 3 := rfl
@[simp] theorem leaveStrip_md : (leaveStrip s).md = s.md := rfl
@[simp] theorem leaveStrip_raw : (leaveStrip s).raw = s.raw := rfl
@[simp] theorem leaveStrip_dw : (leaveStrip s).dw = s.dw := rfl
@[simp] theorem leaveStrip_cor : (leaveStrip s).cor = s.cor := rfl
@[simp] theorem leaveStrip_dst : (leaveStrip s).dst = s.dst := rfl
@[simp] theorem leaveStrip_dstLen : (leaveStrip s).dstLen = s.dstLen := rfl
@[simp] theorem leaveStrip_out : (leaveStrip s).out = s.out := rfl
@[simp] theorem leaveStrip_msg : (leaveStrip s).msg = s.msg := rfl
@[simp] theorem leaveStrip_trace : (leaveStrip s).trace = s.trace := rfl
@[simp] theorem leaveStrip_seq : (leaveStrip s).seq = .modeInit := rfl
@[simp] theorem leaveStrip_stripPos : (leaveStrip s).stripPos = s.stripPos := rfl
@[simp] theorem leaveStrip_epoch : (leaveStrip s).epoch = s.epoch := rfl
@[simp] theorem leaveStrip_host : (leaveStrip s).host = s.host := rfl
@[simp] theorem leaveStrip_hostData : (leaveStrip s).hostData = s.hostData := rfl
@[simp] theorem leaveStrip_params : (leaveStrip s).params = s.params := rfl

/-! ### fetchWord -/

@[simp] theorem fetchWord_desc : (fetchWord s).desc = s.desc := rfl
@[simp] theorem fetchWord_results : (fetchWord s).results = s.results := rfl
@[simp] theorem fetchWord_status : (fetchWord s).status = s.status := rfl
@[simp] theorem fetchWord_md : (fetchWord s).md = s.md := rfl
@[simp] theorem fetchWord_raw : (fetchWord s).raw = s.raw := rfl
@[simp] theorem fetchWord_dw : (fetchWord s).dw = s.dw := rfl
@[simp] theorem fetchWord_cor : (fetchWord s).cor = s.cor := rfl
@[simp] theorem fetchWord_dst : (fetchWord s).dst = s.dst := rfl
@[simp] theorem fetchWord_dstLen : (fetchWord s).dstLen = s.dstLen := rfl
@[simp] theorem fetchWord_out : (fetchWord s).out = s.out := rfl
@[simp] theorem fetchWord_msg : (fetchWord s).msg = s.msg := rfl
@[simp] theorem fetchWord_trace : (fetchWord s).trace = s.trace := rfl
@[simp] theorem fetchWord_seq : (fetchWord s).seq = s.seq := rfl
@[simp] theorem fetchWord_stripPos : (fetchWord s).stripPos = s.stripPos + 1 := rfl
@[simp] theorem fetchWord_epoch : (fetchWord s).epoch = s.epoch := rfl
@[simp] theorem fetchWord_host : (fetchWord s).host = s.host := rfl
@[simp] theorem fetchWord_hostData : (fetchWord s).hostData = s.hostData := rfl
@[simp] theorem fetchWord_params : (fetchWord s).params = s.params := rfl

/-! ### resetTransient -/

@[simp] theorem resetTransient_desc : (resetTransient s).desc = s.desc := rfl
@[simp] theorem resetTransient_results : (resetTransient s).results = s.results := rfl
@[simp] theorem resetTransient_status : (resetTransient s).status = s.status := rfl
@[simp] theorem resetTransient_md : (resetTransient s).md = s.md.restart := rfl
@[simp] theorem resetTransient_raw : (resetTransient s).raw = s.raw := rfl
@[simp] theorem resetTransient_dw : (resetTransient s).dw = s.dw := rfl
@[simp] theorem resetTransient_cor : (resetTransient s).cor = s.cor := rfl
@[simp] theorem resetTransient_dst : (resetTransient s).dst = s.dst := rfl
@[simp] theorem resetTransient_dstLen : (resetTransient s).dstLen = s.dstLen := rfl
@[simp] theorem resetTransient_out : (resetTransient s).out = s.out := rfl
@[simp] theorem resetTransient_msg : (resetTransient s).msg = s.msg := rfl
@[simp] theorem resetTransient_trace : (resetTransient s).trace = s.trace := rfl
@[simp] theorem resetTransient_seq : (resetTransient s).seq = .mode := rfl
@[simp] theorem resetTransient_stripPos : (resetTransient s).stripPos = s.stripPos := rfl
@[simp] theorem resetTransient_epoch : (resetTransient s).epoch = s.epoch := rfl
@[simp] theorem resetTransient_host : (resetTransient s).host = s.host := rfl
@[simp] theorem resetTransient_hostData : (resetTransient s).hostData = s.hostData := rfl
@[simp] theorem resetTransient_params : (resetTransient s).params = s.params := rfl

/-! ### fetchSymbol -/

@[simp] theorem fetchSymbol_desc : (fetchSymbol s).desc = s.desc := rfl
@[simp] theorem fetchSymbol_results : (fetchSymbol s).results = s.results := rfl
@[simp] theorem fetchSymbol_status : (fetchSymbol s).status = s.status := rfl
@[simp] theorem fetchSymbol_md : (fetchSymbol s).md = { s.md with pos := s.md.pos + symWidth s.params.byteWidth s.md.mode } := rfl
@[simp] theorem fetchSymbol_raw : (fetchSymbol s).raw = s.raw := rfl
@[simp] theorem fetchSymbol_dw : (fetchSymbol s).dw = s.dw := rfl
@[simp] theorem fetchSymbol_cor : (fetchSymbol s).cor = s.cor := rfl
@[simp] theorem fetchSymbol_dst : (fetchSymbol s).dst = s.dst := rfl
@[simp] theorem fetchSymbol_dstLen : (fetchSymbol s).dstLen = s.dstLen := rfl
@[simp] theorem fetchSymbol_out : (fetchSymbol s).out = s.out := rfl
@[simp] theorem fetchSymbol_msg : (fetchSymbol s).msg = s.msg := rfl
@[simp] theorem fetchSymbol_trace : (fetchSymbol s).trace = s.trace := rfl
@[simp] theorem fetchSymbol_seq : (fetchSymbol s).seq = s.seq := rfl
@[simp] theorem fetchSymbol_stripPos : (fetchSymbol s).stripPos = s.stripPos := rfl
@[simp] theorem fetchSymbol_epoch : (fetchSymbol s).epoch = s.epoch := rfl
@[simp] theorem fetchSymbol_host : (fetchSymbol s).host = s.host := rfl
@[simp] theorem fetchSymbol_hostData : (fetchSymbol s).hostData = s.hostData := rfl
@[simp] theorem fetchSymbol_params : (fetchSymbol s).params = s.params := rfl

/-! ### finish -/

@[simp] theorem finish_desc : (finish s).desc = s.desc := rfl
@[simp] theorem finish_results : (finish s).results = { s.results with msgLen := s.md.outLen } := rfl
@[simp] theorem finish_status : (finish s).status = s.status.success := rfl
@[simp] theorem finish_md : (finish s).md = s.md := rfl
@[simp] theorem finish_raw : (finish s).raw = s.raw := rfl
@[simp] theorem finish_dw : (finish s).dw = s.dw := rfl
@[simp] theorem finish_cor : (finish s).cor = s.cor := rfl
@[simp] theorem finish_dst : (finish s).dst = s.dst := rfl
@[simp] theorem finish_dstLen : (finish s).dstLen = s.dstLen := rfl
@[simp] theorem finish_out : (finish s).out = s.out := rfl
@[simp] theorem finish_msg : (finish s).msg = writeFrom s.outChar s.md.outLen s.msg := rfl
@[simp] theorem finish_trace : (finish s).trace = s.trace := rfl
@[simp] theorem finish_seq : (finish s).seq = .idle := rfl
@[simp] theorem finish_stripPos : (finish s).stripPos = s.stripPos := rfl
@[simp] theorem finish_epoch : (finish s).epoch = s.epoch := rfl
@[simp] theorem finish_host : (finish s).host = s.host := rfl
@[simp] theorem finish_hostData : (finish s).hostData = s.hostData := rfl
@[simp] theorem finish_params : (finish s).params = s.params := rfl

/-! ### hostTakes -/

@[simp] theorem hostTakes_desc (v : Nat) : (hostTakes v s).desc = s.desc := rfl
@[simp] theorem hostTakes_results (v : Nat) : (hostTakes v s).results = s.results := rfl
@[simp] theorem hostTakes_status (v : Nat) : (hostTakes v s).status = s.status := rfl
@[simp] theorem hostTakes_md (v : Nat) : (hostTakes v s).md = s.md := rfl
@[simp] theorem hostTakes_raw (v : Nat) : (hostTakes v s).raw = s.raw := rfl
@[simp] theorem hostTakes_dw (v : Nat) : (hostTakes v s).dw = s.dw := rfl
@[simp] theorem hostTakes_cor (v : Nat) : (hostTakes v s).cor = s.cor := rfl
@[simp] theorem hostTakes_dst (v : Nat) : (hostTakes v s).dst = s.dst := rfl
@[simp] theorem hostTakes_dstLen (v : Nat) : (hostTakes v s).dstLen = s.dstLen := rfl
@[simp] theorem hostTakes_out (v : Nat) : (hostTakes v s).out = s.out := rfl
@[simp] theorem hostTakes_msg (v : Nat) : (hostTakes v s).msg = s.msg := rfl
@[simp] theorem hostTakes_trace (v : Nat) : (hostTakes v s).trace = s.trace := rfl
@[simp] theorem hostTakes_seq (v : Nat) : (hostTakes v s).seq = s.seq := rfl
@[simp] theorem hostTakes_stripPos (v : Nat) : (hostTakes v s).stripPos = s.stripPos := rfl
@[simp] theorem hostTakes_epoch (v : Nat) : (hostTakes v s).epoch = s.epoch := rfl
@[simp] theorem hostTakes_host (v : Nat) : (hostTakes v s).host = s.host := rfl
@[simp] theorem hostTakes_hostData (v : Nat) : (hostTakes v s).hostData = v := rfl
@[simp] theorem hostTakes_params (v : Nat) : (hostTakes v s).params = s.params := rfl

/-! ### tick: only the host's queue -/

@[simp] theorem tick_desc : s.tick.desc = s.desc := by unfold State.tick; split <;> rfl
@[simp] theorem tick_results : s.tick.results = s.results := by unfold State.tick; split <;> rfl
@[simp] theorem tick_status : s.tick.status = s.status := by unfold State.tick; split <;> rfl
@[simp] theorem tick_md : s.tick.md = s.md := by unfold State.tick; split <;> rfl
@[simp] theorem tick_raw : s.tick.raw = s.raw := by unfold State.tick; split <;> rfl
@[simp] theorem tick_dw : s.tick.dw = s.dw := by unfold State.tick; split <;> rfl
@[simp] theorem tick_cor : s.tick.cor = s.cor := by unfold State.tick; split <;> rfl
@[simp] theorem tick_dst : s.tick.dst = s.dst := by unfold State.tick; split <;> rfl
@[simp] theorem tick_dstLen : s.tick.dstLen = s.dstLen := by unfold State.tick; split <;> rfl
@[simp] theorem tick_out : s.tick.out = s.out := by unfold State.tick; split <;> rfl
@[simp] theorem tick_msg : s.tick.msg = s.msg := by unfold State.tick; split <;> rfl
@[simp] theorem tick_trace : s.tick.trace = s.trace := by unfold State.tick; split <;> rfl
@[simp] theorem tick_seq : s.tick.seq = s.seq := by unfold State.tick; split <;> rfl
@[simp] theorem tick_stripPos : s.tick.stripPos = s.stripPos := by unfold State.tick; split <;> rfl
@[simp] theorem tick_epoch : s.tick.epoch = s.epoch := by unfold State.tick; split <;> rfl
@[simp] theorem tick_hostData : s.tick.hostData = s.hostData := by unfold State.tick; split <;> rfl
@[simp] theorem tick_params : s.tick.params = s.params := by unfold State.tick; split <;> rfl

@[simp] theorem tick_rawBit : s.tick.rawBit = s.rawBit := by funext i; simp [State.rawBit]
@[simp] theorem tick_dwWord : s.tick.dwWord = s.dwWord := by funext i; simp [State.dwWord]
@[simp] theorem tick_corBit : s.tick.corBit = s.corBit := by funext i; simp [State.corBit]
@[simp] theorem tick_dstBit : s.tick.dstBit = s.dstBit := by funext i; simp [State.dstBit]
@[simp] theorem tick_outChar : s.tick.outChar = s.outChar := by funext i; simp [State.outChar]
@[simp] theorem tick_msgChar : s.tick.msgChar = s.msgChar := by funext i; simp [State.msgChar]
@[simp] theorem tick_symbolValue : s.tick.symbolValue = s.symbolValue := by simp [State.symbolValue]
@[simp] theorem tick_corWord : s.tick.corWord = s.corWord := by funext w k; simp [State.corWord]
@[simp] theorem tick_rawWord : s.tick.rawWord = s.rawWord := by funext w k; simp [State.rawWord]

variable (st : Status)

/-! ### Status.start -/

@[simp] theorem Status.start_busy : (st.start).busy = true := rfl
@[simp] theorem Status.start_done : (st.start).done = false := rfl
@[simp] theorem Status.start_ok : (st.start).ok = false := rfl
@[simp] theorem Status.start_fatal : (st.start).fatal = st.fatal := rfl
@[simp] theorem Status.start_corValid : (st.start).corValid = false := rfl
@[simp] theorem Status.start_msgValid : (st.start).msgValid = st.msgValid := rfl
@[simp] theorem Status.start_cause : (st.start).cause = .noCause := rfl
@[simp] theorem Status.start_stage : (st.start).stage = 0 := rfl

/-! ### Status.fail -/

@[simp] theorem Status.fail_busy (c : Cause) : (st.fail c).busy = false := rfl
@[simp] theorem Status.fail_done (c : Cause) : (st.fail c).done = true := rfl
@[simp] theorem Status.fail_ok (c : Cause) : (st.fail c).ok = false := rfl
@[simp] theorem Status.fail_fatal (c : Cause) : (st.fail c).fatal = st.fatal := rfl
@[simp] theorem Status.fail_corValid (c : Cause) : (st.fail c).corValid = st.corValid := rfl
@[simp] theorem Status.fail_msgValid (c : Cause) : (st.fail c).msgValid = st.msgValid := rfl
@[simp] theorem Status.fail_cause (c : Cause) : (st.fail c).cause = c := rfl
@[simp] theorem Status.fail_stage (c : Cause) : (st.fail c).stage = st.stage := rfl

/-! ### Status.fatalStop -/

@[simp] theorem Status.fatalStop_busy (c : Cause) : (st.fatalStop c).busy = false := rfl
@[simp] theorem Status.fatalStop_done (c : Cause) : (st.fatalStop c).done = true := rfl
@[simp] theorem Status.fatalStop_ok (c : Cause) : (st.fatalStop c).ok = false := rfl
@[simp] theorem Status.fatalStop_fatal (c : Cause) : (st.fatalStop c).fatal = true := rfl
@[simp] theorem Status.fatalStop_corValid (c : Cause) : (st.fatalStop c).corValid = st.corValid := rfl
@[simp] theorem Status.fatalStop_msgValid (c : Cause) : (st.fatalStop c).msgValid = st.msgValid := rfl
@[simp] theorem Status.fatalStop_cause (c : Cause) : (st.fatalStop c).cause = c := rfl
@[simp] theorem Status.fatalStop_stage (c : Cause) : (st.fatalStop c).stage = st.stage := rfl

/-! ### Status.success -/

@[simp] theorem Status.success_busy : (st.success).busy = false := rfl
@[simp] theorem Status.success_done : (st.success).done = true := rfl
@[simp] theorem Status.success_ok : (st.success).ok = true := rfl
@[simp] theorem Status.success_fatal : (st.success).fatal = st.fatal := rfl
@[simp] theorem Status.success_corValid : (st.success).corValid = st.corValid := rfl
@[simp] theorem Status.success_msgValid : (st.success).msgValid = true := rfl
@[simp] theorem Status.success_cause : (st.success).cause = .noCause := rfl
@[simp] theorem Status.success_stage : (st.success).stage = 3 := rfl

/-! ### Status.corrected -/

@[simp] theorem Status.corrected_busy : (st.corrected).busy = st.busy := rfl
@[simp] theorem Status.corrected_done : (st.corrected).done = st.done := rfl
@[simp] theorem Status.corrected_ok : (st.corrected).ok = st.ok := rfl
@[simp] theorem Status.corrected_fatal : (st.corrected).fatal = st.fatal := rfl
@[simp] theorem Status.corrected_corValid : (st.corrected).corValid = true := rfl
@[simp] theorem Status.corrected_msgValid : (st.corrected).msgValid = st.msgValid := rfl
@[simp] theorem Status.corrected_cause : (st.corrected).cause = st.cause := rfl
@[simp] theorem Status.corrected_stage : (st.corrected).stage = st.stage := rfl

/-! ### Status.atStage -/

@[simp] theorem Status.atStage_busy (n : BitVec 2) : (st.atStage n).busy = st.busy := rfl
@[simp] theorem Status.atStage_done (n : BitVec 2) : (st.atStage n).done = st.done := rfl
@[simp] theorem Status.atStage_ok (n : BitVec 2) : (st.atStage n).ok = st.ok := rfl
@[simp] theorem Status.atStage_fatal (n : BitVec 2) : (st.atStage n).fatal = st.fatal := rfl
@[simp] theorem Status.atStage_corValid (n : BitVec 2) : (st.atStage n).corValid = st.corValid := rfl
@[simp] theorem Status.atStage_msgValid (n : BitVec 2) : (st.atStage n).msgValid = st.msgValid := rfl
@[simp] theorem Status.atStage_cause (n : BitVec 2) : (st.atStage n).cause = st.cause := rfl
@[simp] theorem Status.atStage_stage (n : BitVec 2) : (st.atStage n).stage = n := rfl

variable (d : Decoder)

/-! ### Decoder.begin -/

@[simp] theorem Decoder.begin_pos : (d.begin).pos = d.pos := rfl
@[simp] theorem Decoder.begin_mode : (d.begin).mode = d.mode := rfl
@[simp] theorem Decoder.begin_revert : (d.begin).revert = d.revert := rfl
@[simp] theorem Decoder.begin_latched : (d.begin).latched = true := rfl
@[simp] theorem Decoder.begin_prior : (d.begin).prior = d.mode := rfl
@[simp] theorem Decoder.begin_outLen : (d.begin).outLen = d.outLen := rfl

/-! ### Decoder.latch -/

@[simp] theorem Decoder.latch_pos (m : Mode) : (d.latch m).pos = d.pos := rfl
@[simp] theorem Decoder.latch_mode (m : Mode) : (d.latch m).mode = m := rfl
@[simp] theorem Decoder.latch_revert (m : Mode) : (d.latch m).revert = d.revert := rfl
@[simp] theorem Decoder.latch_latched (m : Mode) : (d.latch m).latched = d.latched := rfl
@[simp] theorem Decoder.latch_prior (m : Mode) : (d.latch m).prior = d.prior := rfl
@[simp] theorem Decoder.latch_outLen (m : Mode) : (d.latch m).outLen = d.outLen := rfl

/-! ### Decoder.shift -/

@[simp] theorem Decoder.shift_pos (m : Mode) : (d.shift m).pos = d.pos := rfl
@[simp] theorem Decoder.shift_mode (m : Mode) : (d.shift m).mode = m := rfl
@[simp] theorem Decoder.shift_revert (m : Mode) : (d.shift m).revert = d.revert := rfl
@[simp] theorem Decoder.shift_latched (m : Mode) : (d.shift m).latched = false := rfl
@[simp] theorem Decoder.shift_prior (m : Mode) : (d.shift m).prior = d.prior := rfl
@[simp] theorem Decoder.shift_outLen (m : Mode) : (d.shift m).outLen = d.outLen := rfl

/-! ### Decoder.reschedule -/

@[simp] theorem Decoder.reschedule_pos : (d.reschedule).pos = d.pos := rfl
@[simp] theorem Decoder.reschedule_mode : (d.reschedule).mode = d.mode := rfl
@[simp] theorem Decoder.reschedule_revert : (d.reschedule).revert = if d.latched then none else some d.prior := rfl
@[simp] theorem Decoder.reschedule_latched : (d.reschedule).latched = d.latched := rfl
@[simp] theorem Decoder.reschedule_prior : (d.reschedule).prior = d.prior := rfl
@[simp] theorem Decoder.reschedule_outLen : (d.reschedule).outLen = d.outLen := rfl

/-! ### Decoder.restart -/

@[simp] theorem Decoder.restart_pos : (d.restart).pos = 0 := rfl
@[simp] theorem Decoder.restart_mode : (d.restart).mode = .upper := rfl
@[simp] theorem Decoder.restart_revert : (d.restart).revert = none := rfl
@[simp] theorem Decoder.restart_latched : (d.restart).latched = true := rfl
@[simp] theorem Decoder.restart_prior : (d.restart).prior = d.prior := rfl
@[simp] theorem Decoder.restart_outLen : (d.restart).outLen = 0 := rfl

/-! ### Decoder.applyRevert -/

@[simp] theorem Decoder.applyRevert_pos : d.applyRevert.pos = d.pos := by
  unfold Decoder.applyRevert; split <;> simp_all
@[simp] theorem Decoder.applyRevert_mode : d.applyRevert.mode = d.revert.getD d.mode := by
  unfold Decoder.applyRevert; split <;> simp_all
@[simp] theorem Decoder.applyRevert_revert : d.applyRevert.revert = d.revert := by
  unfold Decoder.applyRevert; split <;> simp_all
@[simp] theorem Decoder.applyRevert_latched : d.applyRevert.latched = d.latched := by
  unfold Decoder.applyRevert; split <;> simp_all
@[simp] theorem Decoder.applyRevert_prior : d.applyRevert.prior = d.prior := by
  unfold Decoder.applyRevert; split <;> simp_all
@[simp] theorem Decoder.applyRevert_outLen : d.applyRevert.outLen = d.outLen := by
  unfold Decoder.applyRevert; split <;> simp_all

end Sys2Proof.Machine
end

