-- ==== Sys2Proof/Laws/Exec.lean ====
section
/-! SUPPORT. What running one code word can do, said once: every symbol is `runSymbol` of its value and dispatch result, and `runSymbol` and
`appendBits` leave exactly what `symbolDone`, `symbolFailed` and `dstGrewBy` say. -/

namespace Sys2Proof.Machine

/-- The dispatch result of a symbol; none for a stripper word. -/
def symbolAction : Instr → Option Action
  | .uPS => some (.shift .punct)
  | .uSP => some (.appendChars 32 none)
  | .uCH v => some (.appendChars (charUpper v) none)
  | .uLL => some (.latch .lower)
  | .uML => some (.latch .mixed)
  | .uDL => some (.latch .digit)
  | .uBS => some (.shift .byte)
  | .lPS => some (.shift .punct)
  | .lSP => some (.appendChars 32 none)
  | .lCH v => some (.appendChars (charLower v) none)
  | .lUS => some (.shift .upper)
  | .lML => some (.latch .mixed)
  | .lDL => some (.latch .digit)
  | .lBS => some (.shift .byte)
  | .mPS => some (.shift .punct)
  | .mSP => some (.appendChars 32 none)
  | .mC1 v => some (.appendChars (charCtrl1 v) none)
  | .mC2 v => some (.appendChars (charCtrl2 v) none)
  | .mAT => some (.appendChars 64 none)
  | .mBSL => some (.appendChars 92 none)
  | .mG3 v => some (.appendChars (charMixed3 v) none)
  | .mBAR => some (.appendChars 124 none)
  | .mTIL => some (.appendChars 126 none)
  | .mDEL => some (.appendChars 127 none)
  | .mLL => some (.latch .lower)
  | .mUL => some (.latch .upper)
  | .mPL => some (.latch .punct)
  | .mBS => some (.shift .byte)
  | .pFLG => some (.failSym .flgUnsupported)
  | .pCR => some (.appendChars 13 none)
  | .pCRLF => some (.appendChars 13 (some 10))
  | .pDOTSP => some (.appendChars 46 (some 32))
  | .pCOMSP => some (.appendChars 44 (some 32))
  | .pCOLSP => some (.appendChars 58 (some 32))
  | .pG1 v => some (.appendChars (charPunct1 v) none)
  | .pG2 v => some (.appendChars (charPunct2 v) none)
  | .pLBR => some (.appendChars 91 none)
  | .pRBR => some (.appendChars 93 none)
  | .pLCB => some (.appendChars 123 none)
  | .pRCB => some (.appendChars 125 none)
  | .pUL => some (.latch .upper)
  | .dPS => some (.shift .punct)
  | .dSP => some (.appendChars 32 none)
  | .dCH v => some (.appendChars (charDigit v) none)
  | .dCOM => some (.appendChars 44 none)
  | .dDOT => some (.appendChars 46 none)
  | .dUL => some (.latch .upper)
  | .dUS => some (.shift .upper)
  | .bANY _ => some (.failSym .byteUnsupported)
  | .stuff0 _ => none
  | .stuff1 _ => none
  | .pass _ _ => none

/-- The meaning of a symbol, as one shared operation. -/
theorem exec_symbol {i : Instr} {a : Action} (s : State) (h : symbolAction i = some a) : exec i s = runSymbol (encodeValue i) a s := by
  cases i <;> simp only [symbolAction, Option.some.injEq, reduceCtorEq] at h <;> subst h <;> rfl

/-- The meaning of a stripper word, as one shared operation. -/
theorem exec_word {i : Instr} (s : State) (h : symbolAction i = none) : ∃ n v, exec i s = .next (appendBits n v s) := by
  cases i <;> simp only [symbolAction, reduceCtorEq] at h <;> exact ⟨_, _, rfl⟩

/-! ### The end of a symbol -/

theorem appendChar_outGrewBy (s : State) (c : Char8) : s.outGrewBy (appendChar c s) [c] := by
  refine ⟨rfl, ?_, ?_⟩
  · intro k hk
    have : k = 0 := by simpa using hk
    subst this
    simp
  · intro i hi
    have hne : s.md.outLen ≠ i := by
      simp only [List.length_cons, List.length_nil] at hi
      omega
    simp [Memory.read_write_other _ _ hne]

theorem appendChars_outGrewBy (s : State) (c1 : Char8) (c2 : Option Char8) : s.outGrewBy (appendChars c1 c2 s) (c1 :: c2.toList) := by
  cases c2 with
  | none => exact appendChar_outGrewBy s c1
  | some c =>
    refine ⟨rfl, ?_, ?_⟩
    · intro k hk
      simp only [Option.toList_some, List.length_cons, List.length_nil] at hk
      have : k = 0 ∨ k = 1 := by omega
      rcases this with rfl | rfl <;> simp [appendChars, Memory.read_write]
    · intro i hi
      simp only [Option.toList_some, List.length_cons, List.length_nil] at hi
      have h1 : s.md.outLen ≠ i := by omega
      have h2 : s.md.outLen + 1 ≠ i := by omega
      simp [appendChars, Memory.read_write, h1, h2]

/-- An appending symbol completes (R115, R118, R119). -/
theorem runSymbol_append (s : State) (v : Nat) (c1 : Char8) (c2 : Option Char8) :
    ∃ t, runSymbol v (.appendChars c1 c2) s = .next t ∧ s.symbolDone t v s.md.mode false (c1 :: c2.toList) := by
  refine ⟨_, rfl, ?_⟩
  have h := appendChars_outGrewBy (beginSymbol s) c1 c2
  cases c2 <;> simp only [State.symbolDone, State.sameOutsideSymbol, appendChars] <;> simp [State.outGrewBy] <;>
    simpa [State.outGrewBy, appendChars] using h

/-- A latch completes (R116, R118, R119). -/
theorem runSymbol_latch (s : State) (v : Nat) (m : Mode) :
    ∃ t, runSymbol v (.latch m) s = .next t ∧ s.symbolDone t v m false [] := by
  refine ⟨_, rfl, ?_⟩
  simp [State.symbolDone, State.sameOutsideSymbol, State.outGrewBy]

/-- A shift completes (R117, R118, R119). -/
theorem runSymbol_shift (s : State) (v : Nat) (m : Mode) :
    ∃ t, runSymbol v (.shift m) s = .next t ∧ s.symbolDone t v m true [] := by
  refine ⟨_, rfl, ?_⟩
  simp [State.symbolDone, State.sameOutsideSymbol, State.outGrewBy]

/-- A failing symbol raises and does nothing else (R120). -/
theorem runSymbol_fail (s : State) (v : Nat) (c : Cause) :
    ∃ t, runSymbol v (.failSym c) s = .next t ∧ s.symbolFailed t c := by
  refine ⟨_, rfl, ?_⟩
  simp [State.symbolFailed]

/-- `Append(DST, n, v)` grows DST by the bits of `v` and changes nothing else (R7). -/
theorem appendBits_dstGrewBy (s : State) (n v : Nat) : s.dstGrewBy (appendBits n v s) (toBits n v) := by
  refine ⟨by simp, ?_, ?_, by simp⟩
  · intro k hk
    simp only [toBits_length] at hk
    simpa using memWrite_read_toBits s.dst s.dstLen n v k hk
  · intro i hi
    simp only [toBits_length] at hi
    simpa using memWrite_read_outside s.dst s.dstLen n v i hi

/-- Running a code word always answers a next state. -/
theorem exec_next (i : Instr) (s : State) : ∃ t, exec i s = .next t := by
  cases h : symbolAction i with
  | none =>
    obtain ⟨n, v, hn⟩ := exec_word s h
    exact ⟨_, hn⟩
  | some a =>
    rw [exec_symbol s h]
    cases a <;> exact ⟨_, rfl⟩

/-- Everything a code word can do to a state. -/
theorem exec_cases {i : Instr} {s t : State} (h : exec i s = .next t) :
    (∃ c1 c2, symbolAction i = some (.appendChars c1 c2) ∧ s.symbolDone t (encodeValue i) s.md.mode false (c1 :: c2.toList)) ∨
    (∃ m, symbolAction i = some (.latch m) ∧ s.symbolDone t (encodeValue i) m false []) ∨
    (∃ m, symbolAction i = some (.shift m) ∧ s.symbolDone t (encodeValue i) m true []) ∨
    (∃ c, symbolAction i = some (.failSym c) ∧ s.symbolFailed t c) ∨
    (symbolAction i = none ∧ ∃ n v, t = appendBits n v s) := by
  cases ha : symbolAction i with
  | none =>
    obtain ⟨n, v, hn⟩ := exec_word s ha
    rw [hn] at h
    exact .inr (.inr (.inr (.inr ⟨rfl, n, v, by cases h; rfl⟩)))
  | some a =>
    rw [exec_symbol s ha] at h
    cases a with
    | appendChars c1 c2 =>
      obtain ⟨t', h1, h2⟩ := runSymbol_append s (encodeValue i) c1 c2
      rw [h1] at h
      cases h
      exact .inl ⟨c1, c2, rfl, h2⟩
    | latch m =>
      obtain ⟨t', h1, h2⟩ := runSymbol_latch s (encodeValue i) m
      rw [h1] at h
      cases h
      exact .inr (.inl ⟨m, rfl, h2⟩)
    | shift m =>
      obtain ⟨t', h1, h2⟩ := runSymbol_shift s (encodeValue i) m
      rw [h1] at h
      cases h
      exact .inr (.inr (.inl ⟨m, rfl, h2⟩))
    | failSym c =>
      obtain ⟨t', h1, h2⟩ := runSymbol_fail s (encodeValue i) c
      rw [h1] at h
      cases h
      exact .inr (.inr (.inr (.inl ⟨c, rfl, h2⟩)))

end Sys2Proof.Machine
end

