-- ==== Sys2Proof/Laws/PerInstr.lean ====
section
/-! SUPPORT. Per-instruction families: a statement about every code word as syntax, one lemma per constructor. -/

namespace Sys2Proof.Laws

/-- The value of a well-formed code word fits the width it is read with (R60, R63). -/
def EncodedValueFits.Statement (i : Instr) : Prop :=
  ∀ bw, i.wf bw = true → encodeValue i < 2 ^ i.ctx.width bw

theorem EncodedValueFits.uPS : EncodedValueFits.Statement .uPS := fun _ _ => by simp [encodeValue, Instr.ctx, Ctx.width, symWidth]
theorem EncodedValueFits.uSP : EncodedValueFits.Statement .uSP := fun _ _ => by simp [encodeValue, Instr.ctx, Ctx.width, symWidth]
theorem EncodedValueFits.uCH (v : BitVec 5) : EncodedValueFits.Statement (.uCH v) := fun _ _ => v.isLt
theorem EncodedValueFits.uLL : EncodedValueFits.Statement .uLL := fun _ _ => by simp [encodeValue, Instr.ctx, Ctx.width, symWidth]
theorem EncodedValueFits.uML : EncodedValueFits.Statement .uML := fun _ _ => by simp [encodeValue, Instr.ctx, Ctx.width, symWidth]
theorem EncodedValueFits.uDL : EncodedValueFits.Statement .uDL := fun _ _ => by simp [encodeValue, Instr.ctx, Ctx.width, symWidth]
theorem EncodedValueFits.uBS : EncodedValueFits.Statement .uBS := fun _ _ => by simp [encodeValue, Instr.ctx, Ctx.width, symWidth]
theorem EncodedValueFits.lPS : EncodedValueFits.Statement .lPS := fun _ _ => by simp [encodeValue, Instr.ctx, Ctx.width, symWidth]
theorem EncodedValueFits.lSP : EncodedValueFits.Statement .lSP := fun _ _ => by simp [encodeValue, Instr.ctx, Ctx.width, symWidth]
theorem EncodedValueFits.lCH (v : BitVec 5) : EncodedValueFits.Statement (.lCH v) := fun _ _ => v.isLt
theorem EncodedValueFits.lUS : EncodedValueFits.Statement .lUS := fun _ _ => by simp [encodeValue, Instr.ctx, Ctx.width, symWidth]
theorem EncodedValueFits.lML : EncodedValueFits.Statement .lML := fun _ _ => by simp [encodeValue, Instr.ctx, Ctx.width, symWidth]
theorem EncodedValueFits.lDL : EncodedValueFits.Statement .lDL := fun _ _ => by simp [encodeValue, Instr.ctx, Ctx.width, symWidth]
theorem EncodedValueFits.lBS : EncodedValueFits.Statement .lBS := fun _ _ => by simp [encodeValue, Instr.ctx, Ctx.width, symWidth]
theorem EncodedValueFits.mPS : EncodedValueFits.Statement .mPS := fun _ _ => by simp [encodeValue, Instr.ctx, Ctx.width, symWidth]
theorem EncodedValueFits.mSP : EncodedValueFits.Statement .mSP := fun _ _ => by simp [encodeValue, Instr.ctx, Ctx.width, symWidth]
theorem EncodedValueFits.mC1 (v : BitVec 5) : EncodedValueFits.Statement (.mC1 v) := fun _ _ => v.isLt
theorem EncodedValueFits.mC2 (v : BitVec 5) : EncodedValueFits.Statement (.mC2 v) := fun _ _ => v.isLt
theorem EncodedValueFits.mAT : EncodedValueFits.Statement .mAT := fun _ _ => by simp [encodeValue, Instr.ctx, Ctx.width, symWidth]
theorem EncodedValueFits.mBSL : EncodedValueFits.Statement .mBSL := fun _ _ => by simp [encodeValue, Instr.ctx, Ctx.width, symWidth]
theorem EncodedValueFits.mG3 (v : BitVec 5) : EncodedValueFits.Statement (.mG3 v) := fun _ _ => v.isLt
theorem EncodedValueFits.mBAR : EncodedValueFits.Statement .mBAR := fun _ _ => by simp [encodeValue, Instr.ctx, Ctx.width, symWidth]
theorem EncodedValueFits.mTIL : EncodedValueFits.Statement .mTIL := fun _ _ => by simp [encodeValue, Instr.ctx, Ctx.width, symWidth]
theorem EncodedValueFits.mDEL : EncodedValueFits.Statement .mDEL := fun _ _ => by simp [encodeValue, Instr.ctx, Ctx.width, symWidth]
theorem EncodedValueFits.mLL : EncodedValueFits.Statement .mLL := fun _ _ => by simp [encodeValue, Instr.ctx, Ctx.width, symWidth]
theorem EncodedValueFits.mUL : EncodedValueFits.Statement .mUL := fun _ _ => by simp [encodeValue, Instr.ctx, Ctx.width, symWidth]
theorem EncodedValueFits.mPL : EncodedValueFits.Statement .mPL := fun _ _ => by simp [encodeValue, Instr.ctx, Ctx.width, symWidth]
theorem EncodedValueFits.mBS : EncodedValueFits.Statement .mBS := fun _ _ => by simp [encodeValue, Instr.ctx, Ctx.width, symWidth]
theorem EncodedValueFits.pFLG : EncodedValueFits.Statement .pFLG := fun _ _ => by simp [encodeValue, Instr.ctx, Ctx.width, symWidth]
theorem EncodedValueFits.pCR : EncodedValueFits.Statement .pCR := fun _ _ => by simp [encodeValue, Instr.ctx, Ctx.width, symWidth]
theorem EncodedValueFits.pCRLF : EncodedValueFits.Statement .pCRLF := fun _ _ => by simp [encodeValue, Instr.ctx, Ctx.width, symWidth]
theorem EncodedValueFits.pDOTSP : EncodedValueFits.Statement .pDOTSP := fun _ _ => by simp [encodeValue, Instr.ctx, Ctx.width, symWidth]
theorem EncodedValueFits.pCOMSP : EncodedValueFits.Statement .pCOMSP := fun _ _ => by simp [encodeValue, Instr.ctx, Ctx.width, symWidth]
theorem EncodedValueFits.pCOLSP : EncodedValueFits.Statement .pCOLSP := fun _ _ => by simp [encodeValue, Instr.ctx, Ctx.width, symWidth]
theorem EncodedValueFits.pG1 (v : BitVec 5) : EncodedValueFits.Statement (.pG1 v) := fun _ _ => v.isLt
theorem EncodedValueFits.pG2 (v : BitVec 5) : EncodedValueFits.Statement (.pG2 v) := fun _ _ => v.isLt
theorem EncodedValueFits.pLBR : EncodedValueFits.Statement .pLBR := fun _ _ => by simp [encodeValue, Instr.ctx, Ctx.width, symWidth]
theorem EncodedValueFits.pRBR : EncodedValueFits.Statement .pRBR := fun _ _ => by simp [encodeValue, Instr.ctx, Ctx.width, symWidth]
theorem EncodedValueFits.pLCB : EncodedValueFits.Statement .pLCB := fun _ _ => by simp [encodeValue, Instr.ctx, Ctx.width, symWidth]
theorem EncodedValueFits.pRCB : EncodedValueFits.Statement .pRCB := fun _ _ => by simp [encodeValue, Instr.ctx, Ctx.width, symWidth]
theorem EncodedValueFits.pUL : EncodedValueFits.Statement .pUL := fun _ _ => by simp [encodeValue, Instr.ctx, Ctx.width, symWidth]
theorem EncodedValueFits.dPS : EncodedValueFits.Statement .dPS := fun _ _ => by simp [encodeValue, Instr.ctx, Ctx.width, symWidth]
theorem EncodedValueFits.dSP : EncodedValueFits.Statement .dSP := fun _ _ => by simp [encodeValue, Instr.ctx, Ctx.width, symWidth]
theorem EncodedValueFits.dCH (v : BitVec 4) : EncodedValueFits.Statement (.dCH v) := fun _ _ => v.isLt
theorem EncodedValueFits.dCOM : EncodedValueFits.Statement .dCOM := fun _ _ => by simp [encodeValue, Instr.ctx, Ctx.width, symWidth]
theorem EncodedValueFits.dDOT : EncodedValueFits.Statement .dDOT := fun _ _ => by simp [encodeValue, Instr.ctx, Ctx.width, symWidth]
theorem EncodedValueFits.dUL : EncodedValueFits.Statement .dUL := fun _ _ => by simp [encodeValue, Instr.ctx, Ctx.width, symWidth]
theorem EncodedValueFits.dUS : EncodedValueFits.Statement .dUS := fun _ _ => by simp [encodeValue, Instr.ctx, Ctx.width, symWidth]
theorem EncodedValueFits.bANY (v : Nat) : EncodedValueFits.Statement (.bANY v) := fun _ h => of_decide_eq_true h
theorem EncodedValueFits.stuff0 (w : EccWidth) : EncodedValueFits.Statement (.stuff0 w) := fun _ _ => by
  cases w <;> simp [encodeValue, Instr.ctx, Ctx.width, EccWidth.bits]
theorem EncodedValueFits.stuff1 (w : EccWidth) : EncodedValueFits.Statement (.stuff1 w) := fun _ _ => by
  cases w <;> simp [encodeValue, Instr.ctx, Ctx.width, EccWidth.bits]
theorem EncodedValueFits.pass (w : EccWidth) (v : EccWord) : EncodedValueFits.Statement (.pass w v) := by
  intro _ h
  simp only [Instr.wf, isPlainWord, Bool.and_eq_true, decide_eq_true_eq] at h
  exact h.1.1

end Sys2Proof.Laws
end

