-- ==== Sys2Proof/Laws/Step.lean ====
section
/-! SUPPORT. What one step can do, said once: a step is the due host move or one step of the block; a block step at each place of the
sequence; what a host move leaves; running several steps. -/

namespace Sys2Proof.Machine

/-! ### A step is the host's or the block's -/

theorem step_of_due {s : State} {op : HostOp} {rest : List HostMove} (h : s.due = some (op, rest)) :
    step s = hostAccess op { s with host := rest } := by
  simp [step, h]

theorem step_of_waits {s : State} (h : s.hostWaits) : step s = blockStep s.tick := by
  simp only [State.hostWaits] at h
  simp [step, h]

theorem hostWaits_of_silent {s : State} (h : s.hostSilent) : s.hostWaits := by
  simp only [State.hostSilent] at h
  simp [State.hostWaits, State.due, h]

@[simp] theorem tick_of_silent {s : State} (h : s.host = []) : s.tick = s := by
  simp [State.tick, h]

theorem step_of_silent {s : State} (h : s.hostSilent) : step s = blockStep s := by
  rw [step_of_waits (hostWaits_of_silent h), tick_of_silent h]

theorem step_cases {s t : State} (h : step s = .next t) :
    (∃ op rest, s.due = some (op, rest) ∧ hostAccess op { s with host := rest } = .next t) ∨
    (s.hostWaits ∧ blockStep s.tick = .next t) := by
  cases hd : s.due with
  | none => exact .inr ⟨hd, by rw [← step_of_waits hd]; exact h⟩
  | some e =>
    obtain ⟨op, rest⟩ := e
    exact .inl ⟨op, rest, rfl, by rw [← step_of_due hd]; exact h⟩

/-! ### A block step at each place of the sequence -/

variable {s : State}

theorem blockStep_idle (h : s.seq = .idle) : blockStep s = .next s := by simp [blockStep, h]

theorem blockStep_checks (h : s.seq = .checks) : blockStep s = .next (runChecks s) := by simp [blockStep, h]

theorem blockStep_split (h : s.seq = .split) : blockStep s = .next (withWidth splitStage s) := by simp [blockStep, h]

theorem blockStep_correct (h : s.seq = .correct) : blockStep s = .next (withWidth correctStage s) := by simp [blockStep, h]

theorem blockStep_repack (h : s.seq = .repack) : blockStep s = .next (withWidth repackStage s) := by simp [blockStep, h]

theorem blockStep_stripCheck (h : s.seq = .stripCheck) : blockStep s = .next (withWidth stripCheck s) := by simp [blockStep, h]

theorem blockStep_strip (h : s.seq = .strip) : blockStep s = stripStep s := by simp [blockStep, h]

theorem blockStep_modeInit (h : s.seq = .modeInit) : blockStep s = .next (resetTransient s) := by simp [blockStep, h]

theorem blockStep_mode (h : s.seq = .mode) : blockStep s = modeStep s := by simp [blockStep, h]

theorem runChecks_of_violation {c : Cause} (h : firstViolation s.params s.desc = some c) : runChecks s = raiseFatal c s := by
  simp [runChecks, h]

theorem runChecks_of_pass (h : firstViolation s.params s.desc = none) :
    runChecks s = { s with status := s.status.atStage 1, seq := .split } := by
  simp [runChecks, h]

theorem withWidth_of_some {f : EccWidth → State → State} {w : EccWidth} (h : EccWidth.ofBits? s.desc.wordBits.toNat = some w) :
    withWidth f s = f w s := by
  simp [withWidth, h]

theorem withWidth_of_none {f : EccWidth → State → State} (h : EccWidth.ofBits? s.desc.wordBits.toNat = none) :
    withWidth f s = raiseFatal .badWordBits s := by
  simp [withWidth, h]

theorem stripStep_word {w : EccWidth} (h : EccWidth.ofBits? s.desc.wordBits.toNat = some w) (hk : s.stripPos < s.wordsIn w) :
    stripStep s = exec (decodeStuffed w (s.corWord w s.stripPos)) (fetchWord s) := by
  simp [stripStep, h, hk]

theorem stripStep_end {w : EccWidth} (h : EccWidth.ofBits? s.desc.wordBits.toNat = some w) (hk : ¬ s.stripPos < s.wordsIn w) :
    stripStep s = .next (leaveStrip s) := by
  simp [stripStep, h, hk]

theorem modeStep_symbol (h : symWidth s.params.byteWidth s.md.mode ≤ s.bitsLeft) :
    modeStep s = exec (decodeSymbol s.md.mode s.symbolValue) (fetchSymbol s) := by
  have : ¬ s.bitsLeft < symWidth s.params.byteWidth s.md.mode := by omega
  simp [modeStep, this]

theorem modeStep_end (h : s.bitsLeft < symWidth s.params.byteWidth s.md.mode) : modeStep s = .next (finish s) := by
  simp [modeStep, h]

/-- The block never stops. -/
theorem blockStep_next (s : State) : ∃ t, blockStep s = .next t := by
  cases h : s.seq with
  | strip =>
    rw [blockStep_strip h]
    cases hw : EccWidth.ofBits? s.desc.wordBits.toNat with
    | none => exact ⟨raiseFatal .badWordBits s, by simp [stripStep, hw]⟩
    | some w =>
      by_cases hk : s.stripPos < s.wordsIn w
      · rw [stripStep_word hw hk]; exact exec_next _ _
      · rw [stripStep_end hw hk]; exact ⟨_, rfl⟩
  | mode =>
    rw [blockStep_mode h]
    by_cases hb : s.bitsLeft < symWidth s.params.byteWidth s.md.mode
    · rw [modeStep_end hb]; exact ⟨_, rfl⟩
    · rw [modeStep_symbol (by omega)]; exact exec_next _ _
  | idle => exact ⟨_, blockStep_idle h⟩
  | checks => exact ⟨_, blockStep_checks h⟩
  | split => exact ⟨_, blockStep_split h⟩
  | correct => exact ⟨_, blockStep_correct h⟩
  | repack => exact ⟨_, blockStep_repack h⟩
  | stripCheck => exact ⟨_, blockStep_stripCheck h⟩
  | modeInit => exact ⟨_, blockStep_modeInit h⟩

/-- Everything a block step can do. -/
theorem blockStep_cases {t : State} (h : blockStep s = .next t) :
    (s.seq = .idle ∧ t = s) ∨
    (s.seq = .checks ∧ t = runChecks s) ∨
    (s.seq = .split ∧ t = withWidth splitStage s) ∨
    (s.seq = .correct ∧ t = withWidth correctStage s) ∨
    (s.seq = .repack ∧ t = withWidth repackStage s) ∨
    (s.seq = .stripCheck ∧ t = withWidth stripCheck s) ∨
    (s.seq = .strip ∧ EccWidth.ofBits? s.desc.wordBits.toNat = none ∧ t = raiseFatal .badWordBits s) ∨
    (∃ w, s.seq = .strip ∧ EccWidth.ofBits? s.desc.wordBits.toNat = some w ∧ s.stripPos < s.wordsIn w ∧
      exec (decodeStuffed w (s.corWord w s.stripPos)) (fetchWord s) = .next t) ∨
    (∃ w, s.seq = .strip ∧ EccWidth.ofBits? s.desc.wordBits.toNat = some w ∧ s.wordsIn w ≤ s.stripPos ∧ t = leaveStrip s) ∨
    (s.seq = .modeInit ∧ t = resetTransient s) ∨
    (s.seq = .mode ∧ s.bitsLeft < symWidth s.params.byteWidth s.md.mode ∧ t = finish s) ∨
    (s.seq = .mode ∧ symWidth s.params.byteWidth s.md.mode ≤ s.bitsLeft ∧ exec (decodeSymbol s.md.mode s.symbolValue) (fetchSymbol s) = .next t) := by
  cases hq : s.seq with
  | idle => rw [blockStep_idle hq] at h; cases h; simp
  | checks => rw [blockStep_checks hq] at h; cases h; simp
  | split => rw [blockStep_split hq] at h; cases h; simp
  | correct => rw [blockStep_correct hq] at h; cases h; simp
  | repack => rw [blockStep_repack hq] at h; cases h; simp
  | stripCheck => rw [blockStep_stripCheck hq] at h; cases h; simp
  | modeInit => rw [blockStep_modeInit hq] at h; cases h; simp
  | strip =>
    rw [blockStep_strip hq] at h
    cases hw : EccWidth.ofBits? s.desc.wordBits.toNat with
    | none => simp only [stripStep, hw] at h; cases h; simp
    | some w =>
      by_cases hk : s.stripPos < s.wordsIn w
      · rw [stripStep_word hw hk] at h; simp [hk, h]
      · rw [stripStep_end hw hk] at h; cases h; simp; omega
  | mode =>
    rw [blockStep_mode hq] at h
    by_cases hb : s.bitsLeft < symWidth s.params.byteWidth s.md.mode
    · rw [modeStep_end hb] at h; cases h; simp [hb]
    · rw [modeStep_symbol (by omega)] at h; simp [h]; omega

/-! ### Host moves -/

theorem ifElement_next {b : Bool} {s t : State} (h : ifElement b s = .next t) : b = true ∧ t = s := by
  cases b with
  | true => simp only [ifElement, if_true] at h; cases h; simp
  | false => simp [ifElement] at h

/-- Everything a host move can do. -/
theorem hostAccess_cases {op : HostOp} {t : State} (h : hostAccess op s = .next t) :
    (s.status.busy = true → op.needsIdle = false) ∧
    ((∃ w, op = .writeReg w ∧ t = writeReg w s) ∨
     (∃ i b, op = .writeRawByte i b ∧ byteWithin s.params.rawCapBits i = true ∧ t = { s with raw := memWrite s.raw (8 * i) 8 b.toNat }) ∨
     (∃ v, t = hostTakes v s) ∨
     (op = .hardReset ∧ t = hardReset s)) := by
  by_cases hb : (s.status.busy && op.needsIdle) = true
  · simp [hostAccess, hb] at h
  · refine ⟨by simpa using hb, ?_⟩
    cases op with
    | writeReg w => simp only [hostAccess, hb] at h; cases h; exact .inl ⟨w, rfl, rfl⟩
    | readReg r => simp only [hostAccess, hb] at h; cases h; exact .inr (.inr (.inl ⟨_, rfl⟩))
    | writeRawByte i b =>
      simp only [hostAccess, hb] at h
      obtain ⟨h1, h2⟩ := ifElement_next h
      exact .inr (.inl ⟨i, b, rfl, h1, h2⟩)
    | readRawByte i => simp only [hostAccess, hb] at h; exact .inr (.inr (.inl ⟨_, (ifElement_next h).2⟩))
    | readCorByte i => simp only [hostAccess, hb] at h; exact .inr (.inr (.inl ⟨_, (ifElement_next h).2⟩))
    | readMsg i => simp only [hostAccess, hb] at h; exact .inr (.inr (.inl ⟨_, (ifElement_next h).2⟩))
    | hardReset => simp only [hostAccess, hb] at h; cases h; exact .inr (.inr (.inr ⟨rfl, rfl⟩))

/-- A write of `CTRL` is the START that is accepted, or nothing. -/
theorem writeCtrl_cases (v : BitVec 1) (s : State) :
    (v = 1 ∧ s.status.busy = false ∧ s.status.fatal = false ∧ writeCtrl v s = acceptStart s) ∨ writeCtrl v s = s := by
  by_cases h : v = 1 ∧ s.status.acceptsStart = true
  · refine .inl ⟨h.1, ?_, ?_, by simp [writeCtrl, h]⟩ <;> (have h2 := h.2; simp [Status.acceptsStart] at h2; simp [h2])
  · exact .inr (by simp only [writeCtrl, if_neg h])

/-! ### Buffers through the stages -/

theorem repackWords_wf (w : EccWidth) (f : Nat → EccWord) (m : Nat) (b : Memory Bool) (h : b.wf = true) :
    (repackWords w f m b).wf = true := by
  induction m with
  | zero => exact h
  | succ m ih => exact memWrite_wf _ _ _ _ ih

theorem repackWords_below {cap : Nat} (w : EccWidth) (f : Nat → EccWord) (m : Nat) (b : Memory Bool) (h : b.below cap = true)
    (hm : m * w.bits ≤ cap) : (repackWords w f m b).below cap = true := by
  induction m with
  | zero => exact h
  | succ m ih =>
    rw [Nat.add_mul, Nat.one_mul] at hm
    exact memWrite_below _ _ _ _ (ih (by omega)) hm

/-- The bits of word `i` after the repacking of `m` words (R46, R89). -/
theorem repackWords_read (w : EccWidth) (f : Nat → EccWord) (m i k : Nat) (b : Memory Bool) (hi : i < m) (hk : k < w.bits) :
    (repackWords w f m b).read (i * w.bits + k) = (toBits w.bits (f i).toNat)[k]? := by
  induction m with
  | zero => omega
  | succ m ih =>
    rw [repackWords]
    by_cases h : i = m
    · subst h
      exact memWrite_read_toBits _ _ _ _ _ hk
    · have hlt : i < m := by omega
      have h1 : i * w.bits + k < m * w.bits := by
        have := Nat.mul_le_mul_right w.bits (show i + 1 ≤ m by omega)
        rw [Nat.add_mul, Nat.one_mul] at this
        omega
      rw [memWrite_read_outside _ _ _ _ _ (.inl h1)]
      exact ih hlt

theorem repackWords_read_above (w : EccWidth) (f : Nat → EccWord) (m j : Nat) (b : Memory Bool) (hj : m * w.bits ≤ j) :
    (repackWords w f m b).read j = b.read j := by
  induction m with
  | zero => rfl
  | succ m ih =>
    rw [Nat.add_mul, Nat.one_mul] at hj
    rw [repackWords, memWrite_read_outside _ _ _ _ _ (.inr hj)]
    exact ih (by omega)

/-! ### Runs -/

@[simp] theorem runFor_zero (s : State) : runFor 0 s = .next s := rfl

theorem runFor_succ {n : Nat} {s t : State} (h : step s = .next t) : runFor (n + 1) s = runFor n t := by
  have h' : Sys2Proof.core.step s = .next t := h
  simp only [runFor, Host.Core.run, h']
  rfl

theorem runFor_add {n k : Nat} {s t : State} (h : runFor n s = .next t) : runFor (n + k) s = runFor k t := by
  induction n generalizing s with
  | zero =>
    simp only [runFor_zero] at h
    cases h
    simp
  | succ n ih =>
    cases hs : step s with
    | next u =>
      rw [runFor_succ hs] at h
      rw [show n + 1 + k = (n + k) + 1 by omega, runFor_succ hs]
      exact ih h
    | fault r =>
      have h' : Sys2Proof.core.step s = .fault r := hs
      simp [runFor, Host.Core.run, h'] at h
    | refused r =>
      have h' : Sys2Proof.core.step s = .refused r := hs
      simp [runFor, Host.Core.run, h'] at h

end Sys2Proof.Machine
end

