-- ==== Sys2Proof/Laws/Run.lean ====
section
/-! SUPPORT. Laws for claims about runs: widths, what a code word does to the buffers read as sequences, and that a silent host stays
silent. -/

namespace Sys2Proof.Machine

/-! ### Widths -/

@[simp] theorem ofBits?_bits (w : EccWidth) : EccWidth.ofBits? w.bits = some w := by cases w <;> rfl

theorem eq_bits_of_ofBits? {n : Nat} {w : EccWidth} (h : EccWidth.ofBits? n = some w) : n = w.bits := by
  unfold EccWidth.ofBits? at h
  split at h
  · cases h; assumption
  · split at h
    · cases h; assumption
    · split at h
      · cases h; assumption
      · split at h
        · cases h; assumption
        · cases h

theorem bits_pos (w : EccWidth) : 0 < w.bits := by cases w <;> simp [EccWidth.bits]

theorem two_pow_bits_le (w : EccWidth) : 2 ^ w.bits ≤ 4096 := by cases w <;> simp [EccWidth.bits]

theorem four_le_symWidth {bw : Nat} {m : Mode} (h : m ≠ .byte) : 4 ≤ symWidth bw m := by cases m <;> simp_all [symWidth]

/-! ### Symbols that do not fail -/

/-- The three kinds of symbol that do not fail (R73). -/
theorem symbolAction_of_notFailing {i : Instr} (hs : isSymbol i) (hf : isFailing i = false) :
    (∃ c1 c2, symbolAction i = some (.appendChars c1 c2) ∧ isShift i = false) ∨
    (∃ m, symbolAction i = some (.latch m) ∧ isShift i = false) ∨
    (∃ m, symbolAction i = some (.shift m) ∧ isShift i = true) := by
  obtain ⟨m, hs⟩ := hs
  cases i <;> simp [isFailing, Instr.ctx] at hf hs <;> simp [symbolAction, isShift]

/-- A symbol that does not fail is processed to its end. -/
theorem exec_symbolDone {i : Instr} (s : State) (hs : isSymbol i) (hf : isFailing i = false) :
    ∃ t h cs, exec i s = .next t ∧ s.symbolDone t (encodeValue i) h (isShift i) cs := by
  rcases symbolAction_of_notFailing hs hf with ⟨c1, c2, h, hh⟩ | ⟨m, h, hh⟩ | ⟨m, h, hh⟩ <;> rw [hh, exec_symbol s h]
  · obtain ⟨t, h1, h2⟩ := runSymbol_append s (encodeValue i) c1 c2
    exact ⟨t, _, _, h1, h2⟩
  · obtain ⟨t, h1, h2⟩ := runSymbol_latch s (encodeValue i) m
    exact ⟨t, _, _, h1, h2⟩
  · obtain ⟨t, h1, h2⟩ := runSymbol_shift s (encodeValue i) m
    exact ⟨t, _, _, h1, h2⟩

/-! ### Buffers as sequences -/

theorem outText_of_outGrewBy {s t : State} {cs : List Char8} (h : s.outGrewBy t cs) (he : t.epoch = s.epoch) :
    t.outText = s.outText ++ cs := by
  obtain ⟨h1, h2, h3⟩ := h
  apply List.ext_getElem?
  intro i
  simp only [State.outText, h1]
  by_cases a : i < s.md.outLen
  · rw [List.getElem?_append_left (by simpa using a)]
    have : i < s.md.outLen + cs.length := by omega
    simp [a, this, State.outChar, h3 i (.inl a), he]
  · by_cases b : i < s.md.outLen + cs.length
    · rw [List.getElem?_append_right (by simp; omega)]
      have hr := h2 (i - s.md.outLen) (by omega)
      rw [show s.md.outLen + (i - s.md.outLen) = i by omega] at hr
      have hl : i - s.md.outLen < cs.length := by omega
      simp [b, State.outChar, hr, hl]
    · rw [List.getElem?_append_right (by simp; omega), List.getElem?_eq_none (by simp; omega),
        List.getElem?_eq_none (by simp; omega)]

theorem dstBits_of_dstGrewBy {s t : State} {l : List Bool} (h : s.dstGrewBy t l) : t.dstBits = s.dstBits ++ l := by
  obtain ⟨h1, h2, h3, hh⟩ := h
  have he : t.epoch = s.epoch := by simp [hh]
  apply List.ext_getElem?
  intro i
  simp only [State.dstBits, h1]
  by_cases a : i < s.dstLen
  · rw [List.getElem?_append_left (by simpa using a), readBits_getElem? _ _ _ _ (by omega), readBits_getElem? _ _ _ _ a]
    simp [State.dstBit, h3 i (.inl a), he]
  · by_cases b : i < s.dstLen + l.length
    · rw [List.getElem?_append_right (by simp; omega), readBits_getElem? _ _ _ _ b]
      have hr := h2 (i - s.dstLen) (by omega)
      rw [show s.dstLen + (i - s.dstLen) = i by omega] at hr
      have hl : i - s.dstLen < l.length := by omega
      simp [State.dstBit, hr, hl]
    · rw [List.getElem?_eq_none (by simp; omega), List.getElem?_eq_none (by simp; omega)]

/-! ### Silent hosts -/

/-- No block step touches the host's queue. -/
theorem blockStep_host {s t : State} (h : blockStep s = .next t) : t.host = s.host := by
  have keep : ∀ f : EccWidth → State → State, (∀ w, (f w s).host = s.host) → (withWidth f s).host = s.host := by
    intro f hf
    simp only [withWidth]
    split
    · exact hf _
    · simp
  have word : ∀ {i : Instr} {u : State}, exec i u = .next t → u.host = s.host → t.host = s.host := by
    intro i u hx hu
    rcases exec_cases hx with ⟨_, _, _, h⟩ | ⟨_, _, h⟩ | ⟨_, _, h⟩ | ⟨_, _, h⟩ | ⟨_, _, _, rfl⟩
    · simp only [State.symbolDone, State.sameOutsideSymbol] at h; simp [h, hu]
    · simp only [State.symbolDone, State.sameOutsideSymbol] at h; simp [h, hu]
    · simp only [State.symbolDone, State.sameOutsideSymbol] at h; simp [h, hu]
    · simp only [State.symbolFailed] at h; simp [h, hu]
    · simp [hu]
  rcases blockStep_cases h with ⟨_, rfl⟩ | ⟨_, rfl⟩ | ⟨_, rfl⟩ | ⟨_, rfl⟩ | ⟨_, rfl⟩ | ⟨_, rfl⟩ | ⟨_, _, rfl⟩ | ⟨w, _, _, _, h⟩ |
    ⟨w, _, _, _, rfl⟩ | ⟨_, rfl⟩ | ⟨_, _, rfl⟩ | ⟨_, _, h⟩
  · rfl
  · simp only [runChecks]; split <;> simp
  · exact keep splitStage (by intro w; simp [splitStage])
  · exact keep correctStage (by intro w; simp only [correctStage, takeAnswer]; split <;> simp)
  · exact keep repackStage (by intro w; simp [repackStage])
  · exact keep stripCheck (by intro w; simp only [stripCheck]; split <;> simp)
  · simp
  · exact word h rfl
  · simp [leaveStrip]
  · simp [resetTransient]
  · simp [finish]
  · exact word h rfl

/-- A silent host stays silent. -/
theorem hostSilent_of_step {s t : State} (hs : s.hostSilent) (h : step s = .next t) : t.hostSilent := by
  rw [step_of_silent hs] at h
  have := blockStep_host h
  simp only [State.hostSilent] at *
  rw [this, hs]

end Sys2Proof.Machine
end

