-- ==== Sys2Proof/Tests/Slice0.lean ====
section
/-! SUPPORT. Small tests: ill-formed terms are refused; every constructor's decoding from bits written out from the spec's encodings; single
steps with results from the spec's examples; and, for every statement with hypotheses, states and operands that meet them. -/

namespace Sys2Proof.Machine

/-! ### WellFormed refuses an ill-formed term of each check (R68, R62) -/

theorem test_wf_uCH : (Instr.uCH 1).wf 8 = false ∧ (Instr.uCH 28).wf 8 = false := by decide
theorem test_wf_lCH : (Instr.lCH 1).wf 8 = false ∧ (Instr.lCH 28).wf 8 = false := by decide
theorem test_wf_mC1 : (Instr.mC1 1).wf 8 = false ∧ (Instr.mC1 15).wf 8 = false := by decide
theorem test_wf_mC2 : (Instr.mC2 14).wf 8 = false ∧ (Instr.mC2 20).wf 8 = false := by decide
theorem test_wf_mG3 : (Instr.mG3 21).wf 8 = false ∧ (Instr.mG3 25).wf 8 = false := by decide
theorem test_wf_pG1 : (Instr.pG1 5).wf 8 = false ∧ (Instr.pG1 21).wf 8 = false := by decide
theorem test_wf_pG2 : (Instr.pG2 20).wf 8 = false ∧ (Instr.pG2 27).wf 8 = false := by decide
theorem test_wf_dCH : (Instr.dCH 1).wf 8 = false ∧ (Instr.dCH 12).wf 8 = false := by decide
theorem test_wf_pass_stuffed : (Instr.pass .w6 1).wf 8 = false ∧ (Instr.pass .w6 62).wf 8 = false := by decide
theorem test_wf_pass_width : (Instr.pass .w6 64).wf 8 = false ∧ (Instr.pass .w10 1024).wf 8 = false := by decide
theorem test_wf_bANY : (Instr.bANY 256).wf 8 = false ∧ (Instr.bANY 32).wf 5 = false := by decide
theorem test_wf_accepts : (Instr.uCH 2).wf 8 = true ∧ (Instr.pass .w12 4093).wf 8 = true ∧ (Instr.bANY 255).wf 8 = true := by decide

/-! ### Decoding, bits written out from the encodings of R130 to R200, R60 and R62 -/

theorem test_decode_upper :
    decode 8 (.symbol .upper) [false, false, false, false, false] = .ok (.uPS, []) ∧
    decode 8 (.symbol .upper) [false, false, false, false, true] = .ok (.uSP, []) ∧
    decode 8 (.symbol .upper) [false, false, false, true, false] = .ok (.uCH 2, []) ∧
    decode 8 (.symbol .upper) [true, true, false, true, true] = .ok (.uCH 27, []) ∧
    decode 8 (.symbol .upper) [true, true, true, false, false] = .ok (.uLL, []) ∧
    decode 8 (.symbol .upper) [true, true, true, false, true] = .ok (.uML, []) ∧
    decode 8 (.symbol .upper) [true, true, true, true, false] = .ok (.uDL, []) ∧
    decode 8 (.symbol .upper) [true, true, true, true, true] = .ok (.uBS, []) :=
  ⟨rfl, rfl, rfl, rfl, rfl, rfl, rfl, rfl⟩

theorem test_decode_lower :
    decode 8 (.symbol .lower) [false, false, false, false, false] = .ok (.lPS, []) ∧
    decode 8 (.symbol .lower) [false, false, false, false, true] = .ok (.lSP, []) ∧
    decode 8 (.symbol .lower) [false, false, false, true, false] = .ok (.lCH 2, []) ∧
    decode 8 (.symbol .lower) [true, true, false, true, true] = .ok (.lCH 27, []) ∧
    decode 8 (.symbol .lower) [true, true, true, false, false] = .ok (.lUS, []) ∧
    decode 8 (.symbol .lower) [true, true, true, false, true] = .ok (.lML, []) ∧
    decode 8 (.symbol .lower) [true, true, true, true, false] = .ok (.lDL, []) ∧
    decode 8 (.symbol .lower) [true, true, true, true, true] = .ok (.lBS, []) :=
  ⟨rfl, rfl, rfl, rfl, rfl, rfl, rfl, rfl⟩

theorem test_decode_mixed_appends :
    decode 8 (.symbol .mixed) [false, false, false, false, true] = .ok (.mSP, []) ∧
    decode 8 (.symbol .mixed) [false, false, false, true, false] = .ok (.mC1 2, []) ∧
    decode 8 (.symbol .mixed) [false, true, true, true, false] = .ok (.mC1 14, []) ∧
    decode 8 (.symbol .mixed) [false, true, true, true, true] = .ok (.mC2 15, []) ∧
    decode 8 (.symbol .mixed) [true, false, false, true, true] = .ok (.mC2 19, []) ∧
    decode 8 (.symbol .mixed) [true, false, true, false, false] = .ok (.mAT, []) ∧
    decode 8 (.symbol .mixed) [true, false, true, false, true] = .ok (.mBSL, []) ∧
    decode 8 (.symbol .mixed) [true, false, true, true, false] = .ok (.mG3 22, []) ∧
    decode 8 (.symbol .mixed) [true, true, false, false, false] = .ok (.mG3 24, []) ∧
    decode 8 (.symbol .mixed) [true, true, false, false, true] = .ok (.mBAR, []) ∧
    decode 8 (.symbol .mixed) [true, true, false, true, false] = .ok (.mTIL, []) ∧
    decode 8 (.symbol .mixed) [true, true, false, true, true] = .ok (.mDEL, []) :=
  ⟨rfl, rfl, rfl, rfl, rfl, rfl, rfl, rfl, rfl, rfl, rfl, rfl⟩

theorem test_decode_mixed_modes :
    decode 8 (.symbol .mixed) [false, false, false, false, false] = .ok (.mPS, []) ∧
    decode 8 (.symbol .mixed) [true, true, true, false, false] = .ok (.mLL, []) ∧
    decode 8 (.symbol .mixed) [true, true, true, false, true] = .ok (.mUL, []) ∧
    decode 8 (.symbol .mixed) [true, true, true, true, false] = .ok (.mPL, []) ∧
    decode 8 (.symbol .mixed) [true, true, true, true, true] = .ok (.mBS, []) :=
  ⟨rfl, rfl, rfl, rfl, rfl⟩

theorem test_decode_punct :
    decode 8 (.symbol .punct) [false, false, false, false, false] = .ok (.pFLG, []) ∧
    decode 8 (.symbol .punct) [false, false, false, false, true] = .ok (.pCR, []) ∧
    decode 8 (.symbol .punct) [false, false, false, true, false] = .ok (.pCRLF, []) ∧
    decode 8 (.symbol .punct) [false, false, false, true, true] = .ok (.pDOTSP, []) ∧
    decode 8 (.symbol .punct) [false, false, true, false, false] = .ok (.pCOMSP, []) ∧
    decode 8 (.symbol .punct) [false, false, true, false, true] = .ok (.pCOLSP, []) ∧
    decode 8 (.symbol .punct) [false, false, true, true, false] = .ok (.pG1 6, []) ∧
    decode 8 (.symbol .punct) [true, false, true, false, false] = .ok (.pG1 20, []) ∧
    decode 8 (.symbol .punct) [true, false, true, false, true] = .ok (.pG2 21, []) ∧
    decode 8 (.symbol .punct) [true, true, false, true, false] = .ok (.pG2 26, []) ∧
    decode 8 (.symbol .punct) [true, true, false, true, true] = .ok (.pLBR, []) ∧
    decode 8 (.symbol .punct) [true, true, true, false, false] = .ok (.pRBR, []) ∧
    decode 8 (.symbol .punct) [true, true, true, false, true] = .ok (.pLCB, []) ∧
    decode 8 (.symbol .punct) [true, true, true, true, false] = .ok (.pRCB, []) ∧
    decode 8 (.symbol .punct) [true, true, true, true, true] = .ok (.pUL, []) :=
  ⟨rfl, rfl, rfl, rfl, rfl, rfl, rfl, rfl, rfl, rfl, rfl, rfl, rfl, rfl, rfl⟩

theorem test_decode_digit :
    decode 8 (.symbol .digit) [false, false, false, false] = .ok (.dPS, []) ∧
    decode 8 (.symbol .digit) [false, false, false, true] = .ok (.dSP, []) ∧
    decode 8 (.symbol .digit) [false, false, true, false] = .ok (.dCH 2, []) ∧
    decode 8 (.symbol .digit) [true, false, true, true] = .ok (.dCH 11, []) ∧
    decode 8 (.symbol .digit) [true, true, false, false] = .ok (.dCOM, []) ∧
    decode 8 (.symbol .digit) [true, true, false, true] = .ok (.dDOT, []) ∧
    decode 8 (.symbol .digit) [true, true, true, false] = .ok (.dUL, []) ∧
    decode 8 (.symbol .digit) [true, true, true, true] = .ok (.dUS, []) :=
  ⟨rfl, rfl, rfl, rfl, rfl, rfl, rfl, rfl⟩

theorem test_decode_byte :
    decode 8 (.symbol .byte) [false, true, false, false, false, false, false, true] = .ok (.bANY 65, []) := rfl

theorem test_decode_words :
    decode 8 (.word 6) [false, false, false, false, false, true] = .ok (.stuff0 .w6, []) ∧
    decode 8 (.word 6) [true, true, true, true, true, false] = .ok (.stuff1 .w6, []) ∧
    decode 8 (.word 6) [false, false, false, false, false, false] = .ok (.pass .w6 0, []) ∧
    decode 8 (.word 8) [true, true, true, true, true, true, true, false] = .ok (.stuff1 .w8, []) ∧
    decode 8 (.word 8) [true, true, true, true, true, true, true, true] = .ok (.pass .w8 255, []) ∧
    decode 8 (.word 10) [true, true, true, true, true, true, true, true, true, false] = .ok (.stuff1 .w10, []) ∧
    decode 8 (.word 12) [false, false, false, false, false, false, false, false, false, false, false, true] = .ok (.stuff0 .w12, []) :=
  ⟨rfl, rfl, rfl, rfl, rfl, rfl, rfl⟩

theorem test_decode_refusals :
    decode 8 (.word 7) [true, true, true, true, true, true, true] = .error .badWordBits ∧
    decode 8 (.symbol .upper) [true, true, true, true] = .error .tooFewBits ∧
    decode 8 (.word 6) [true, true, true, true, true] = .error .tooFewBits := ⟨rfl, rfl, rfl⟩

/-! ### Small states -/

/-- The descriptor of 95_test_vectors.md's first whole decode: width 6, two data words of seven. -/
def demoDesc : Descriptor := { dataLayers := 1, wordBits := 6, msgWords := 2, capWords := 7, capBits := 42, rawLen := 42 }

/-- A running decode at a place of the sequence, with a corrected buffer of 12 bits where one exists. -/
def running (q : Seq) : State :=
  { State.reset with
    desc := demoDesc
    results := { corLen := 12, totalErrs := 0, msgLen := 0 }
    status := { State.reset.status with busy := true, stage := q.stage, corValid := q.pastRepack }
    seq := q }

/-- The symbol loop under mode `m` with the `n` bits of `v` in DST and nothing read yet. -/
def reading (m : Mode) (n v : Nat) : State :=
  { running .mode with md := { State.reset.md with mode := m }, dst := memWrite [] 0 n v, dstLen := n }

/-- The stripper's word loop with the 6-bit words `a` and `b` in COR. -/
def stripping (a b : Nat) : State :=
  { running .strip with cor := memWrite (memWrite [] 0 6 a) 6 6 b }

/-- An idle block with one host move due. -/
def withHost (op : HostOp) (s : State) : State := { s with host := [{ after := 0, op := op }] }

/-! ### Single steps -/

/-- `00010` under UPPER appends `A` (R132). -/
theorem test_step_upper_A : ∃ t, step (reading .upper 5 2) = .next t ∧ t.out = [(0, 65)] ∧ t.md.pos = 5 := ⟨_, rfl, rfl, rfl⟩

/-- `11011` under LOWER appends `z` (R142). -/
theorem test_step_lower_z : ∃ t, step (reading .lower 5 27) = .next t ∧ t.out = [(0, 122)] := ⟨_, rfl, rfl⟩

/-- `01111` under MIXED appends code 23 (R153). -/
theorem test_step_mixed_ctrl2 : ∃ t, step (reading .mixed 5 15) = .next t ∧ t.out = [(0, 23)] := ⟨_, rfl, rfl⟩

/-- `11000` under MIXED appends code 96 (R156). -/
theorem test_step_mixed_grave : ∃ t, step (reading .mixed 5 24) = .next t ∧ t.out = [(0, 96)] := ⟨_, rfl, rfl⟩

/-- `00010` under PUNCT appends codes 13 and 10 (R172). -/
theorem test_step_punct_crlf : ∃ t, step (reading .punct 5 2) = .next t ∧ t.out = [(0, 13), (1, 10)] := ⟨_, rfl, rfl⟩

/-- `11010` under PUNCT appends `?` (R177). -/
theorem test_step_punct_question : ∃ t, step (reading .punct 5 26) = .next t ∧ t.out = [(0, 63)] := ⟨_, rfl, rfl⟩

/-- `0011` under DIGIT appends `1` (R192). -/
theorem test_step_digit_one : ∃ t, step (reading .digit 4 3) = .next t ∧ t.out = [(0, 49)] ∧ t.md.pos = 4 := ⟨_, rfl, rfl, rfl⟩

/-- `00000` under UPPER shifts to PUNCT and schedules the revert to UPPER (R130). -/
theorem test_step_shift :
    ∃ t, step (reading .upper 5 0) = .next t ∧ t.md.mode = .punct ∧ t.md.latched = false ∧ t.md.revert = some .upper :=
  ⟨_, rfl, rfl, rfl, rfl⟩

/-- `11100` under UPPER with a revert to DIGIT pending has no effect on the mode (R125). -/
theorem test_step_shifted_latch :
    ∃ t, step { reading .upper 5 28 with md := { State.reset.md with revert := some .digit } } = .next t ∧ t.md.mode = .digit ∧
      t.md.revert = none :=
  ⟨_, rfl, rfl, rfl⟩

/-- PUNCT value 0 fails the decode: `STATUS` reads stage 3, cause 2, `COR_VALID`, `DONE` (R240). -/
theorem test_step_flg : ∃ t, step (reading .punct 5 0) = .next t ∧ t.status.word = 0xC92 ∧ t.seq = .idle := ⟨_, rfl, by decide, rfl⟩

/-- Eight bits under BYTE fail the decode with cause 3; seven end it successfully (R200, R126). -/
theorem test_step_byte :
    (∃ t, step (reading .byte 8 65) = .next t ∧ t.status.word = 0xCD2) ∧
    (∃ t, step (reading .byte 7 127) = .next t ∧ t.status.word = 0xC36) := ⟨⟨_, rfl, by decide⟩, ⟨_, rfl, by decide⟩⟩

/-- With `BYTE_WIDTH` 5 those seven bits hold a BYTE symbol, and the decode fails; with 16, eight bits end it successfully (U2). -/
theorem test_step_byte_width :
    (∃ t, step { reading .byte 7 127 with params := { Params.standard with byteWidth := 5 } } = .next t ∧ t.status.word = 0xCD2 ∧
      t.md.pos = 5) ∧
    (∃ t, step { reading .byte 8 65 with params := { Params.standard with byteWidth := 16 } } = .next t ∧ t.status.word = 0xC36) :=
  ⟨⟨_, rfl, by decide, rfl⟩, ⟨_, rfl, by decide⟩⟩

/-- `000001` strips to five zero bits (R103). -/
theorem test_step_stuff0 : ∃ t, step (stripping 1 0) = .next t ∧ t.dstBits = [false, false, false, false, false] := ⟨_, rfl, rfl⟩

/-- `111110` strips to five one bits (R104). -/
theorem test_step_stuff1 : ∃ t, step (stripping 62 0) = .next t ∧ t.dstBits = [true, true, true, true, true] := ⟨_, rfl, rfl⟩

/-- `000110` passes unchanged (R105). -/
theorem test_step_pass : ∃ t, step (stripping 6 0) = .next t ∧ t.dstBits = [false, false, false, true, true, false] := ⟨_, rfl, rfl⟩

/-- A START before a descriptor is loaded: two steps, `STATUS` = stage 0, cause 8, `FATAL`, `DONE` (R26, R233). -/
theorem test_start_without_descriptor :
    ∃ t, runFor 2 (withHost (.writeReg (.ctrl 1)) State.reset) = .next t ∧ t.status.word = 0x20A := ⟨_, rfl, by decide⟩

/-- A RAW byte write and its read back (R42): byte 1 of RAW is bits 8 to 15. -/
theorem test_raw_byte : ∃ t, step (withHost (.writeRawByte 1 0x80) State.reset) = .next t ∧ t.raw.read 8 = some true ∧
    t.raw.read 9 = some false ∧ t.raw.read 7 = none := ⟨_, rfl, rfl, rfl, rfl⟩

/-- The opcode-table word of `U.CH` 2, placed, is what the next step runs. -/
theorem test_withFetchWord_symbol : ∃ t, step (State.reset.withFetchWord 8 2) = .next t ∧ t.out.read 0 = some 65 := ⟨_, rfl, rfl⟩

theorem test_decodeTableWord_symbol : decodeTableWord 8 2 = some (.uCH 2) := by decide

/-- The opcode-table word of `STUFF1` at width 12, placed, is what the next step runs. -/
theorem test_withFetchWord_word :
    (match step (State.reset.withFetchWord 16 4094) with
      | .next t => t.dstBits
      | _ => []) = List.replicate 11 true := by
  decide

theorem test_decodeTableWord_word : decodeTableWord 16 4094 = some (.stuff1 .w12) := by decide

/-! ### Witnesses: states and operands that meet the hypotheses of the statements -/

theorem witness_DecodeInvertsEncode : (Instr.pass .w12 4095).wf 8 = true ∧ (Instr.uCH 27).wf 8 = true ∧ (Instr.bANY 0).wf 8 = true := by
  decide

theorem witness_EncodeInvertsDecode : decode 8 (.symbol .digit) [true, true, true, true, false] = .ok (.dUS, [false]) := rfl

theorem witness_EveryValueHasOneEntry : 31 < 2 ^ symWidth 8 .mixed ∧ 15 < 2 ^ symWidth 8 .digit ∧ 4095 < 2 ^ EccWidth.w12.bits := by decide

theorem witness_MeaningsFollowTheDispatchTable : 31 < 2 ^ symWidth 8 .upper ∧ 255 < 2 ^ symWidth 8 .byte := by decide

theorem witness_StepRunsDecodedSymbol : ∃ (s : State) (i : Instr) (rest : List Bool), s.hostWaits ∧ s.seq = .mode ∧
    decode s.params.byteWidth (.symbol s.md.mode) (readBits s.dstBit s.md.pos (s.dstLen - s.md.pos)) = .ok (i, rest) :=
  ⟨reading .upper 9 32, .uCH 2, [false, false, false, false], rfl, rfl, rfl⟩

theorem witness_StepRunsDecodedWord : ∃ (s : State) (i : Instr) (rest : List Bool), s.hostWaits ∧ s.seq = .strip ∧
    decode s.params.byteWidth (.word s.desc.wordBits.toNat)
      (readBits s.corBit (s.stripPos * s.desc.wordBits.toNat) (s.results.corLen - s.stripPos * s.desc.wordBits.toNat)) =
        .ok (i, rest) :=
  ⟨{ stripping 0 62 with stripPos := 1 }, .stuff1 .w6, [], rfl, rfl, rfl⟩

theorem witness_entry_ranges : ((2 : BitVec 5).toNat = 2 ∧ (27 : BitVec 5).toNat = 27) ∧ ((14 : BitVec 5).toNat = 14 ∧
    (15 : BitVec 5).toNat = 15 ∧ (19 : BitVec 5).toNat = 19) ∧ ((22 : BitVec 5).toNat = 22 ∧ (24 : BitVec 5).toNat = 24) ∧
    ((6 : BitVec 5).toNat = 6 ∧ (20 : BitVec 5).toNat = 20 ∧ (21 : BitVec 5).toNat = 21 ∧ (26 : BitVec 5).toNat = 26) ∧
    ((2 : BitVec 4).toNat = 2 ∧ (11 : BitVec 4).toNat = 11) := by decide

/-- Both ends of the value range of `U.CH`. -/
theorem witness_UpperEntriesComplete : 2 ≤ (2 : BitVec 5).toNat ∧ (2 : BitVec 5).toNat ≤ 27 ∧ 2 ≤ (27 : BitVec 5).toNat ∧
    (27 : BitVec 5).toNat ≤ 27 := by decide

/-- Both ends of the value range of `L.CH`. -/
theorem witness_LowerEntriesComplete : (Instr.lCH 2).wf 8 = true ∧ (Instr.lCH 27).wf 8 = true ∧ 2 ≤ (2 : BitVec 5).toNat ∧
    (27 : BitVec 5).toNat ≤ 27 := by decide

/-- The ends of the value ranges of `M.C1`, `M.C2` and `M.G3`. -/
theorem witness_MixedEntriesComplete : 2 ≤ (2 : BitVec 5).toNat ∧ (14 : BitVec 5).toNat ≤ 14 ∧ 15 ≤ (15 : BitVec 5).toNat ∧
    (19 : BitVec 5).toNat ≤ 19 ∧ 22 ≤ (22 : BitVec 5).toNat ∧ (24 : BitVec 5).toNat ≤ 24 := by decide

/-- The ends of the value ranges of `P.G1` and `P.G2`. -/
theorem witness_PunctEntriesComplete : 6 ≤ (6 : BitVec 5).toNat ∧ (20 : BitVec 5).toNat ≤ 20 ∧ 21 ≤ (21 : BitVec 5).toNat ∧
    (26 : BitVec 5).toNat ≤ 26 := by decide

/-- Both ends of the value range of `D.CH`. -/
theorem witness_DigitEntriesComplete : 2 ≤ (2 : BitVec 4).toNat ∧ (11 : BitVec 4).toNat ≤ 11 := by decide

theorem witness_FailingSymbolsEndTheDecode :
    (∃ s : State, s.hostWaits ∧ s.symbolReady ∧ s.md.mode = .punct ∧ s.symbolValue = 0) ∧
    (∃ s : State, s.hostWaits ∧ s.symbolReady ∧ s.md.mode = .byte) :=
  ⟨⟨reading .punct 5 0, rfl, ⟨rfl, by decide⟩, rfl, rfl⟩, ⟨reading .byte 8 255, rfl, ⟨rfl, by decide⟩, rfl⟩⟩

theorem witness_PlainWordPassesUnchanged : (0 < 2 ^ EccWidth.w6.bits ∧ 0 ≠ 1 ∧ 0 ≠ 2 ^ EccWidth.w6.bits - 2) ∧
    (4095 < 2 ^ EccWidth.w12.bits ∧ 4095 ≠ 1 ∧ 4095 ≠ 2 ^ EccWidth.w12.bits - 2) := by decide

/-- Four bits end the loop under UPPER; five are one more symbol. -/
theorem witness_SymbolLoopGuard :
    (∃ s : State, s.hostWaits ∧ s.seq = .mode ∧ s.dstLen - s.md.pos < symWidth s.params.byteWidth s.md.mode) ∧
    (∃ s : State, s.hostWaits ∧ s.seq = .mode ∧ symWidth s.params.byteWidth s.md.mode ≤ s.dstLen - s.md.pos) :=
  ⟨⟨reading .upper 4 15, rfl, rfl, by decide⟩, ⟨reading .upper 5 31, rfl, rfl, by decide⟩⟩

/-- A state in the middle of a decode: one letter read, a shift pending, three bits left. -/
def midDecode : State :=
  { reading .punct 12 84 with
    md := { pos := 10, mode := .punct, revert := some .upper, latched := false, prior := .upper, outLen := 1 }
    out := [(0, 66)]
    raw := memWrite [] 0 8 17
    msg := [(0, 65)] }

theorem midDecode_inv : midDecode.Inv := by
  refine ⟨?_, ?_, ?_, ?_, ?_, ?_⟩
  · unfold State.buffersWf; decide
  · unfold State.buffersWithin; decide
  · unfold State.statusCoherent; decide
  · unfold State.descriptorChecked; decide
  · unfold State.lengthsBounded; decide
  · unfold State.registersFit; decide

theorem witness_LoopEndPublishesMessage : midDecode.hostWaits ∧ midDecode.seq = .mode ∧
    midDecode.dstLen - midDecode.md.pos < symWidth midDecode.params.byteWidth midDecode.md.mode ∧ midDecode.Inv := ⟨rfl, rfl, by decide, midDecode_inv⟩

theorem witness_OnlySuccessWritesTheMessage : ∃ s t : State, step s = .next t ∧ ¬ s.messageKept t :=
  ⟨reading .upper 4 15, finish (reading .upper 4 15), rfl, fun h => absurd h.2.2 (by decide)⟩

theorem witness_SymbolTurnIsTheSmallStep : (reading .upper 4 15).hostWaits ∧ (reading .upper 4 15).seq = .mode ∧
    autoStep 8 (reading .upper 4 15).dstBits (reading .upper 4 15).auto = .done ∧
    autoStep 8 (reading .punct 5 0).dstBits (reading .punct 5 0).auto = .failed .flgUnsupported ∧
    autoStep 8 (reading .upper 5 28).dstBits (reading .upper 5 28).auto = .next { pos := 5, mode := .lower, revert := none, out := [] } :=
  ⟨rfl, rfl, rfl, rfl, rfl⟩

theorem witness_PendingRevertOverridesHandler : isSymbol .dUL ∧ isFailing .dUL = false := ⟨⟨.digit, rfl⟩, rfl⟩

theorem witness_RevertIsRecomputed : (isSymbol .lUS ∧ isFailing .lUS = false) ∧ (isSymbol .pCR ∧ isFailing .pCR = false) :=
  ⟨⟨⟨.lower, rfl⟩, rfl⟩, ⟨⟨.punct, rfl⟩, rfl⟩⟩

theorem witness_ShiftRevertsExactlyOnce : (reading .upper 5 0).md.mode = .upper ∧ (reading .upper 5 0).md.revert = none ∧
    isShift .dPS = true ∧ isSymbol .pUL ∧ isFailing .pUL = false := ⟨rfl, rfl, rfl, ⟨.punct, rfl⟩, rfl⟩

theorem witness_ShiftedSymbolCannotChangeMode : (reading .lower 5 28).md.revert = none ∧ isSymbol .lSP ∧ isFailing .lSP = false ∧
    Instr.pUL.ctx = .symbol .punct := ⟨rfl, ⟨.lower, rfl⟩, rfl, rfl⟩

theorem witness_ModeChangesAreTheListedOnes : ∃ s t : State, Instr.uLL.ctx = .symbol s.md.mode ∧ s.md.revert = none ∧
    exec .uLL s = .next t ∧ t.md.mode ≠ s.md.mode := ⟨reading .upper 5 28, _, rfl, rfl, rfl, by decide⟩

theorem witness_EmittedCodePoints : (Instr.mC1 14).wf 8 = true ∧ isSymbol (.mC1 14) ∧ isFailing (.mC1 14) = false :=
  ⟨rfl, ⟨.mixed, rfl⟩, rfl⟩

theorem witness_SymbolLoopTerminatesWithinBounds : ((reading .digit 4 0).hostWaits ∧ (reading .digit 4 0).symbolReady) ∧
    ((reading .digit 4 0).hostSilent ∧ (reading .digit 4 0).seq = .mode) ∧ (midDecode.Inv ∧ midDecode.seq = .mode) :=
  ⟨⟨rfl, rfl, by decide⟩, ⟨rfl, rfl⟩, midDecode_inv, rfl⟩

theorem witness_StartIsAccepted : ∃ (s : State) (rest : List HostMove), s.due = some (.writeReg (.ctrl 1), rest) ∧
    s.status.busy = false ∧ s.status.fatal = false := ⟨withHost (.writeReg (.ctrl 1)) State.reset, [], rfl, rfl, rfl⟩

theorem witness_StartIsIgnored :
    (∃ (s : State) (rest : List HostMove), s.due = some (.writeReg (.ctrl 1), rest) ∧ s.status.busy = true) ∧
    (∃ (s : State) (rest : List HostMove), s.due = some (.writeReg (.ctrl 1), rest) ∧ s.status.fatal = true) ∧
    (∃ (s : State) (rest : List HostMove), s.due = some (.writeReg (.ctrl 0), rest)) :=
  ⟨⟨withHost (.writeReg (.ctrl 1)) (running .split), [], rfl, rfl⟩,
    ⟨withHost (.writeReg (.ctrl 1)) (raiseFatal .badLayers State.reset), [], rfl, rfl⟩,
    ⟨withHost (.writeReg (.ctrl 0)) State.reset, [], rfl⟩⟩

/-- A block about to run its checks on the descriptor `d`. -/
def checking (d : Descriptor) : State := { running .checks with desc := d }

theorem witness_ChecksInOrder : (running .checks).hostWaits ∧ (running .checks).seq = .checks ∧
    firstViolation Params.standard demoDesc = none := ⟨rfl, rfl, rfl⟩

/-- Each check at a boundary value with the later ones broken too: the first broken one is reported (R213). -/
theorem witness_ChecksInOrder_branches :
    (checking { demoDesc with wordBits := 7, dataLayers := 0 }).hostWaits ∧
    firstViolation Params.standard { demoDesc with wordBits := 7, dataLayers := 0 } = some .badWordBits ∧
    firstViolation Params.standard { demoDesc with dataLayers := 0, rawLen := 41 } = some .badLayers ∧
    firstViolation Params.standard { demoDesc with rawLen := 41, msgWords := 8 } = some .rawLength ∧
    firstViolation Params.standard { demoDesc with msgWords := 8 } = some .wordCounts ∧
    firstViolation Params.standard { demoDesc with capWords := 8 } = some .wordCounts :=
  ⟨rfl, rfl, rfl, rfl, rfl, rfl⟩

/-- The capacities of R6: just filled, and passed by one (R213 check 6). -/
theorem witness_ChecksInOrder_capacity :
    firstViolation Params.standard { demoDesc with capBits := 32768, rawLen := 32768, capWords := 4096 } = none ∧
    firstViolation Params.standard { demoDesc with capBits := 32769, rawLen := 32769 } = some .capacity ∧
    firstViolation Params.standard { demoDesc with capBits := 32768, rawLen := 32768, capWords := 4097 } = some .capacity ∧
    firstViolation { Params.standard with corCapBits := 11 } demoDesc = some .capacity := by decide

theorem witness_SplitCutsRawIntoWords : (running .split).hostWaits ∧ (running .split).seq = .split ∧
    (running .split).desc.wordBits.toNat = EccWidth.w6.bits ∧
    (running .split).desc.msgWords ≤ (running .split).desc.capWords := ⟨rfl, rfl, rfl, by decide⟩

theorem witness_CorrectTakesTheAnswer : (running .correct).hostWaits ∧ (running .correct).seq = .correct ∧
    (running .correct).desc.wordBits.toNat = EccWidth.w6.bits := ⟨rfl, rfl, rfl⟩

/-- REPACK with the data words 4 and 15 (R89's example). -/
def repacking : State := { running .repack with dw := [(0, 4), (1, 15)] }

theorem witness_RepackWritesCorrectedBits : repacking.hostWaits ∧ repacking.seq = .repack ∧
    repacking.desc.wordBits.toNat = EccWidth.w6.bits ∧
    (∀ i, i < repacking.desc.msgWords → (repacking.dwWord i).toNat < 2 ^ EccWidth.w6.bits) := by
  refine ⟨rfl, rfl, rfl, ?_⟩
  intro i hi
  have h : i < 2 := hi
  match i, h with
  | 0, _ => decide
  | 1, _ => decide

/-- The stripper's check with a whole number of words, in a state that meets the invariant, and with one bit too many. -/
theorem witness_StripperPrecondition :
    ((running .stripCheck).hostWaits ∧ (running .stripCheck).seq = .stripCheck ∧
      (running .stripCheck).desc.wordBits.toNat = EccWidth.w6.bits ∧
      (running .stripCheck).results.corLen % EccWidth.w6.bits = 0) ∧
    (running .stripCheck).Inv ∧
    (∃ s : State, s.hostWaits ∧ s.seq = .stripCheck ∧ s.desc.wordBits.toNat = EccWidth.w6.bits ∧
      s.results.corLen % EccWidth.w6.bits ≠ 0) := by
  refine ⟨⟨rfl, rfl, rfl, rfl⟩, ⟨?_, ?_, ?_, ?_, ?_, ?_⟩, ?_⟩
  · unfold State.buffersWf; decide
  · unfold State.buffersWithin; decide
  · unfold State.statusCoherent; decide
  · unfold State.descriptorChecked; decide
  · unfold State.lengthsBounded; decide
  · unfold State.registersFit; decide
  · exact ⟨{ running .stripCheck with results := { corLen := 13, totalErrs := 0, msgLen := 0 } }, rfl, rfl, rfl, by decide⟩

theorem witness_ModeDecodeStartsFresh :
    (∃ s : State, s.hostWaits ∧ s.seq = .strip ∧ s.desc.wordBits.toNat = EccWidth.w6.bits ∧
      s.results.corLen / EccWidth.w6.bits ≤ s.stripPos) ∧
    ((running .modeInit).hostWaits ∧ (running .modeInit).seq = .modeInit) :=
  ⟨⟨{ running .strip with stripPos := 2 }, rfl, rfl, rfl, by decide⟩, rfl, rfl⟩

theorem witness_StatusWordLayout : State.reset.status.word = State.reset.status.word := rfl

theorem witness_HardwareReset :
    (∃ (s : State) (rest : List HostMove), s.due = some (.hardReset, rest)) ∧
    (∃ s t : State, step s = .next t ∧ s.status.fatal = true ∧ t.status.fatal = false) ∧
    (∃ s t : State, step s = .next t ∧ s.seq = .idle ∧ t.seq ≠ .idle) :=
  ⟨⟨withHost .hardReset midDecode, [], rfl⟩,
    ⟨withHost .hardReset (raiseFatal .capacity State.reset), _, rfl, rfl, rfl⟩,
    ⟨withHost (.writeReg (.ctrl 1)) State.reset, acceptStart State.reset, rfl, rfl, by decide⟩⟩

theorem witness_IdleBlockKeepsState : (State.reset.hostWaits ∧ State.reset.seq = .idle ∧ State.reset.host = []) ∧
    ∃ s : State, s.hostWaits ∧ s.seq = .idle ∧ s.host = [{ after := 0 + 1, op := .hardReset }, { after := 2, op := .readReg .status }] :=
  ⟨⟨rfl, rfl, rfl⟩,
    { State.reset with host := [{ after := 0 + 1, op := .hardReset }, { after := 2, op := .readReg .status }] }, rfl, rfl, rfl⟩

theorem witness_HostWritesAreStored :
    (withHost (.writeReg (.dataLayers 255)) State.reset).status.busy = false ∧
    (withHost (.writeReg (.dataLayers 255)) State.reset).due = some (.writeReg (.dataLayers 255), []) ∧
    (withHost (.writeReg (.wordBits 7)) State.reset).due = some (.writeReg (.wordBits 7), []) ∧
    (withHost (.writeReg (.msgWords 65535)) State.reset).due = some (.writeReg (.msgWords 65535), []) ∧
    (withHost (.writeReg (.capWords 65536)) State.reset).due = some (.writeReg (.capWords 65536), []) ∧
    (withHost (.writeReg (.capBits 42)) State.reset).due = some (.writeReg (.capBits 42), []) ∧
    (withHost (.writeReg (.rawLen 41)) State.reset).due = some (.writeReg (.rawLen 41), []) :=
  ⟨rfl, rfl, rfl, rfl, rfl, rfl, rfl⟩

theorem witness_HostReadsRegisters : (withHost (.readReg .corLen) State.reset).status.busy = false ∧
    (withHost (.readReg .corLen) State.reset).due = some (.readReg .corLen, []) := ⟨rfl, rfl⟩

theorem witness_BusyHostAccessIsRefused :
    midDecode.status.busy = true ∧
    (withHost (.writeReg (.rawLen 1)) midDecode).due = some (.writeReg (.rawLen 1), []) ∧
    (withHost (.writeRawByte 0 0) midDecode).due = some (.writeRawByte 0 0, []) ∧
    (withHost (.readCorByte 0) midDecode).due = some (.readCorByte 0, []) ∧
    (withHost (.readReg .msgLen) midDecode).due = some (.readReg .msgLen, []) ∧
    (withHost (.readReg .status) midDecode).due = some (.readReg .status, []) ∧
    (withHost (.readReg .ctrl) midDecode).due = some (.readReg .ctrl, []) := ⟨rfl, rfl, rfl, rfl, rfl, rfl, rfl⟩

theorem witness_HostAndBlockWriteTheirOwn :
    (∃ s t : State, step s = .next t ∧ (t.desc ≠ s.desc ∨ t.raw ≠ s.raw)) ∧
    (∃ (s t : State) (op : HostOp) (rest : List HostMove), s.due = some (op, rest) ∧ op ≠ .hardReset ∧ step s = .next t) :=
  ⟨⟨withHost (.writeReg (.wordBits 6)) State.reset, writeReg (.wordBits 6) State.reset, rfl, .inl (by decide)⟩,
    ⟨withHost (.readReg .status) State.reset, _, .readReg .status, [], rfl, by decide, rfl⟩⟩

/-- The last byte of RAW and COR, and the first that does not exist. -/
theorem witness_ByteViewOfBitBuffers :
    State.reset.status.busy = false ∧ 4095 < (State.reset.params.rawCapBits + 7) / 8 ∧ (State.reset.params.rawCapBits + 7) / 8 ≤ 4096 ∧
    4095 < (State.reset.params.corCapBits + 7) / 8 ∧ (State.reset.params.corCapBits + 7) / 8 ≤ 4096 ∧
    (withHost (.writeRawByte 4095 1) State.reset).due = some (.writeRawByte 4095 1, []) ∧
    (withHost (.readRawByte 4095) State.reset).due = some (.readRawByte 4095, []) ∧
    (withHost (.readCorByte 4095) State.reset).due = some (.readCorByte 4095, []) ∧
    (withHost (.readRawByte 4096) State.reset).due = some (.readRawByte 4096, []) ∧
    (withHost (.readCorByte 4096) State.reset).due = some (.readCorByte 4096, []) :=
  ⟨rfl, by decide, by decide, by decide, by decide, rfl, rfl, rfl, rfl, rfl⟩

/-- The last character of MSG, and the first that does not exist. -/
theorem witness_HostReadsMessage : State.reset.status.busy = false ∧ 13106 < State.reset.params.msgCap ∧
    State.reset.params.msgCap ≤ 13107 ∧
    (withHost (.readMsg 13106) State.reset).due = some (.readMsg 13106, []) ∧
    (withHost (.readMsg 13107) State.reset).due = some (.readMsg 13107, []) := ⟨rfl, by decide, by decide, rfl, rfl⟩

theorem witness_MemReadAndMemWrite : 0 < 2 ^ 0 ∧ 255 < 2 ^ 8 := by decide

theorem witness_StripperOutputLength :
    stripPadding .w6 [false, false, false, false, false, true] = .ok [false, false, false, false, false] := rfl

theorem witness_StripperIdentityWithoutStuffing :
    [false, false, false, true, true, false].length % EccWidth.w6.bits = 0 ∧
    wordAt .w6 [false, false, false, true, true, false] 0 ≠ 1 ∧
    wordAt .w6 [false, false, false, true, true, false] 0 ≠ 2 ^ EccWidth.w6.bits - 2 := by decide

theorem witness_StripperRunIsStripPadding : (running .stripCheck).hostSilent ∧ (running .stripCheck).seq = .stripCheck ∧
    (running .stripCheck).desc.wordBits.toNat = EccWidth.w6.bits ∧
    (running .stripCheck).results.corLen % EccWidth.w6.bits = 0 := ⟨rfl, rfl, rfl, rfl⟩

theorem witness_ModeDecoderRunIsModeDecode : (running .modeInit).hostSilent ∧ (running .modeInit).seq = .modeInit :=
  ⟨rfl, rfl⟩

theorem running_checks_coherent : (running .checks).statusCoherent := by unfold State.statusCoherent; decide

theorem witness_DecodeRunIsDecode : (running .checks).hostSilent ∧ (running .checks).seq = .checks ∧ (running .checks).statusCoherent :=
  ⟨rfl, rfl, running_checks_coherent⟩

/-- Two starts that differ in an old message, in scratch and in RAW beyond the words read. -/
theorem witness_DecodeDependsOnMarkerOnly : ∃ s₁ s₂ : State, s₁ ≠ s₂ ∧ s₁.hostSilent ∧ s₂.hostSilent ∧ s₁.seq = .checks ∧
    s₂.seq = .checks ∧ s₁.statusCoherent ∧ s₂.statusCoherent ∧ s₁.params = s₂.params ∧ s₁.desc = s₂.desc ∧
    ∀ i, i < s₁.desc.capWords * s₁.desc.wordBits.toNat → s₁.rawBit i = s₂.rawBit i := by
  refine ⟨running .checks, { running .checks with msg := [(0, 65)], dw := [(0, 1)], raw := [(42, true)] }, by decide, rfl, rfl, rfl, rfl,
    running_checks_coherent, running_checks_coherent, rfl, rfl, ?_⟩
  intro i hi
  have h : i < 42 := hi
  have h42 : 42 ≠ i := by omega
  simp [State.rawBit, Memory.read, running, State.reset, h42]

theorem witness_StepKeepsBuffersCanonical : midDecode.buffersWf ∧ step midDecode = .next (finish midDecode) :=
  ⟨midDecode_inv.1, rfl⟩

theorem witness_StepKeepsInvariant : midDecode.Inv ∧ step midDecode = .next (finish midDecode) := ⟨midDecode_inv, rfl⟩

theorem witness_SymbolStreamIsFixed :
    (∃ s t : State, step s = .next t ∧ t.dst ≠ s.dst) ∧
    (∃ s t : State, s.hostWaits ∧ s.seq = .mode ∧ step s = .next t) :=
  ⟨⟨stripping 6 0, _, rfl, by decide⟩, ⟨reading .upper 5 2, _, rfl, rfl, rfl⟩⟩

end Sys2Proof.Machine
end

section
/-! SUPPORT. `MemRead` and `MemWrite` (spec/00_scope.md R7): the weighted sum, the written bits and the read-back (O49). -/

namespace Sys2Proof.Machine

/-! ### Bit sums and written bits (R7) -/

/-- `MemRead` is the weighted sum of its bits (R7). -/
theorem memRead_eq_sum (get : Nat → Bool) (p n : Nat) :
    memRead get p n = (Finset.range n).sum fun j => (get (p + j)).toNat * 2 ^ (n - 1 - j) := by
  induction n generalizing p with
  | zero => rfl
  | succ n ih =>
    have hcons : memRead get p (n + 1) = (get p).toNat * 2 ^ n + memRead get (p + 1) n := by
      simp [memRead, readBits, ofBits]
    rw [hcons, ih, Finset.sum_range_succ', Nat.add_comm]
    congr 1
    refine Finset.sum_congr rfl fun j _ => ?_
    rw [show p + 1 + j = p + (j + 1) by omega, show n - 1 - j = n + 1 - 1 - (j + 1) by omega]

/-- `MemRead` of bits that `MemWrite` has just written gives the value, whatever unwritten bits read as. -/
theorem memRead_memWrite (b : Memory Bool) (free : Nat → Bool) {p n v : Nat} (hv : v < 2 ^ n) :
    memRead (fun i => ((memWrite b p n v).read i).getD (free i)) p n = v := by
  have hbits : readBits (fun i => ((memWrite b p n v).read i).getD (free i)) p n = toBits n v := by
    refine readBits_eq_toBits fun k hk => ?_
    simp [memWrite_read_toBits b p n v k hk, toBits_getElem? n v k hk]
  rw [memRead, hbits, ofBits_toBits_of_lt hv]

/-- Settles O49: the sum by induction on the width, the written bits and the read-back by the laws of `memWrite`. -/
theorem memReadAndMemWrite : Obligations.MemReadAndMemWrite := by
  refine ⟨memRead_eq_sum, fun b p n v => ⟨fun j hj => ?_, memWrite_read_outside b p n v⟩,
    fun b free p n v hv => memRead_memWrite b free hv⟩
  rw [memWrite_read_toBits b p n v j hj, toBits_getElem? n v j hj]

end Sys2Proof.Machine
end

section
/-! SUPPORT. The invariant is kept by every step (O58): one lemma per operation of the block and per host move, then the step. -/

namespace Sys2Proof.Machine

/-! ### Whole bytes (R42) -/

/-- Padding fills the last byte (R42). -/
theorem add_padCount (n : Nat) : n + padCount n = wholeBytes n := by
  simp only [padCount, wholeBytes]
  omega

theorem wholeBytes_mono {m n : Nat} (h : m ≤ n) : wholeBytes m ≤ wholeBytes n := by
  simp only [wholeBytes]
  omega

theorem le_wholeBytes (n : Nat) : n ≤ wholeBytes n := by
  simp only [wholeBytes]
  omega

/-! ### How much one code word appends -/

/-- How many characters a dispatch result appends (R115). -/
def Action.charCount : Action → Nat
  | .appendChars _ c2 => 1 + c2.toList.length
  | .latch _ | .shift _ | .failSym _ => 0

/-- Every branch of a mode's table is an entry of that mode. -/
theorem decodeSymbol_ctx (m : Mode) (v : Nat) : (decodeSymbol m v).ctx = .symbol m := by
  cases m <;>
    simp only [decodeSymbol, decodeUpper, decodeLower, decodeMixed, decodePunct, decodeDigit, apply_ite Instr.ctx] <;>
    simp only [Instr.ctx, ite_self]

theorem symbolAction_isSome {i : Instr} {m : Mode} (hi : i.ctx = .symbol m) : ∃ a, symbolAction i = some a := by
  cases i <;> cases hi <;> exact ⟨_, rfl⟩

/-- A symbol appends at most two characters for every five bits of its width (R123). -/
theorem charCount_le_symWidth {i : Instr} {m : Mode} {a : Action} (bw : Nat) (hi : i.ctx = .symbol m)
    (ha : symbolAction i = some a) : 5 * a.charCount ≤ 2 * symWidth bw m := by
  cases i <;> cases hi <;> cases ha <;> simp [Action.charCount, symWidth]

/-- Only the two recoverable causes of R235 and R236 come from a symbol. -/
theorem cause_of_failSym {i : Instr} {c : Cause} (ha : symbolAction i = some (.failSym c)) : c.isFatal = false ∧ c ≠ .noCause := by
  cases i <;> cases ha <;> decide

/-- A stripper word appends at most its own width (R103 to R105). -/
theorem exec_decodeStuffed (w : EccWidth) (x : Nat) (s : State) :
    ∃ n v, n ≤ w.bits ∧ exec (decodeStuffed w x) s = .next (appendBits n v s) := by
  unfold decodeStuffed
  split_ifs
  · exact ⟨_, _, Nat.sub_le _ _, rfl⟩
  · exact ⟨_, _, Nat.sub_le _ _, rfl⟩
  · exact ⟨_, _, le_rfl, rfl⟩

/-! ### The invariant's parts, in the form a step uses them -/

/-- Before REPACK no length is bounded yet. -/
theorem lengthsBounded_of_not_pastRepack {s : State} (h : s.seq.pastRepack = false) : s.lengthsBounded := by
  cases hq : s.seq <;> simp_all [State.lengthsBounded, Seq.pastRepack]

theorem descriptorChecked_of_not_pastChecks {s : State} (h : s.seq.pastChecks = false) : s.descriptorChecked := by
  simp [State.descriptorChecked, h]

/-- The status of a decode at place `q` (R13, R211, R212): all of it but `MSG_VALID` follows from the place. -/
def Seq.runningStatus (q : Seq) (msgValid : Bool) : Status :=
  { busy := true, done := false, ok := false, fatal := false, corValid := q.pastRepack, msgValid := msgValid,
    cause := .noCause, stage := q.stage }

theorem statusCoherent_iff_of_running {s : State} (h : s.seq ≠ .idle) :
    s.statusCoherent ↔ s.status = s.seq.runningStatus s.status.msgValid := by
  constructor
  · rintro ⟨hbusy, hdone, hrun, -⟩
    have hb : s.status.busy = true := hbusy.mpr h
    obtain ⟨hok, hfatal, hcause, hstage, hcor⟩ := hrun hb
    have hd : s.status.done = false := by simpa [hb] using hdone
    cases hst : s.status
    simp_all [Seq.runningStatus]
  · intro hst
    rw [State.statusCoherent, hst]
    simp [Seq.runningStatus, h, Cause.isFatal]

/-- What the six checks of R213 establish. -/
theorem firstViolation_eq_none_iff {p : Params} {d : Descriptor} :
    firstViolation p d = none ↔
      EccWidth.ofBits? d.wordBits.toNat ≠ none ∧ 1 ≤ d.dataLayers.toNat ∧ d.rawLen = d.capBits ∧ d.msgWords ≤ d.capWords ∧
        d.capWords * d.wordBits.toNat ≤ d.capBits ∧ d.capBits ≤ p.rawCapBits ∧ d.capWords ≤ p.wordCap ∧
        d.msgWords * d.wordBits.toNat ≤ p.corCapBits := by
  unfold firstViolation
  split_ifs <;> simp_all <;> omega

theorem isFatal_of_firstViolation {p : Params} {d : Descriptor} {c : Cause} (h : firstViolation p d = some c) : c.isFatal = true := by
  unfold firstViolation at h
  split_ifs at h <;> cases h <;> rfl

/-- A stage with a checked descriptor works with that descriptor's width. -/
theorem exists_width_of_inv {s : State} (h : s.Inv) (hq : s.seq.pastChecks = true) :
    ∃ w, EccWidth.ofBits? s.desc.wordBits.toNat = some w ∧ s.desc.wordBits.toNat = w.bits := by
  obtain ⟨-, -, -, hd, -, -⟩ := h
  obtain ⟨hw, -⟩ := firstViolation_eq_none_iff.mp (hd hq)
  obtain ⟨w, hw⟩ := Option.ne_none_iff_exists'.mp hw
  exact ⟨w, hw, eq_bits_of_ofBits? hw⟩

theorem checked_of_inv {s : State} (h : s.Inv) (hq : s.seq.pastChecks = true) : firstViolation s.params s.desc = none := by
  obtain ⟨-, -, -, hd, -, -⟩ := h
  exact hd hq

theorem status_of_inv {s : State} (h : s.Inv) (hq : s.seq ≠ .idle) : s.status = s.seq.runningStatus s.status.msgValid := by
  obtain ⟨-, -, hst, -, -, -⟩ := h
  exact (statusCoherent_iff_of_running hq).mp hst

/-- Past REPACK the corrected bits fit the capacity of COR and DST (R46, R213). -/
theorem corLen_le_corCapBits {s : State} (h : s.Inv) (hq : s.seq.pastRepack = true) : s.results.corLen ≤ s.params.corCapBits := by
  obtain ⟨-, -, -, hd, ⟨hcor, -⟩, -⟩ := h
  have hpast : s.seq.pastChecks = true := by cases hs : s.seq <;> simp_all [Seq.pastRepack, Seq.pastChecks]
  obtain ⟨-, -, -, -, -, -, -, hcap⟩ := firstViolation_eq_none_iff.mp (hd hpast)
  rw [hcor hq]
  exact hcap

/-- In the symbol loop, a text of at most two characters for every five bits read fits OUT, MSG and `MSG_LEN` (R6, R123). -/
theorem textLength_fits {s : State} (h : s.Inv) (hq : s.seq = .mode) {n : Nat} (hn : 5 * n ≤ 2 * s.md.pos) :
    n ≤ s.params.msgCap ∧ n < 2 ^ s.params.lenw := by
  have hcap : s.results.corLen ≤ s.params.corCapBits := corLen_le_corCapBits h (by rw [hq]; rfl)
  obtain ⟨-, -, -, -, ⟨-, -, hdst, hmode⟩, ⟨hmsg, -, hlenw⟩, -⟩ := h
  have hdst := hdst (.inr hq)
  obtain ⟨hpos, -⟩ := hmode hq
  constructor <;> omega

theorem outLen_bound {s : State} (h : s.Inv) (hq : s.seq = .mode) : 5 * s.md.outLen ≤ 2 * s.md.pos := by
  obtain ⟨-, -, -, -, ⟨-, -, -, hmode⟩, -⟩ := h
  obtain ⟨-, hout⟩ := hmode hq
  exact hout

/-! ### Ends of a decode -/

theorem raiseFatal_inv {s : State} {c : Cause} (h : s.Inv) (hc : c.isFatal = true) : (raiseFatal c s).Inv := by
  obtain ⟨hwf, hin, -, -, -, hr⟩ := h
  refine ⟨hwf, hin, ?_, descriptorChecked_of_not_pastChecks rfl, lengthsBounded_of_not_pastRepack rfl, hr⟩
  have hne : c ≠ .noCause := by rintro rfl; cases hc
  simp [State.statusCoherent, hc, hne]

theorem raiseFail_inv {s : State} {c : Cause} (h : s.Inv) (hq : s.seq ≠ .idle) (hc : c.isFatal = false) (hne : c ≠ .noCause) :
    (raiseFail c s).Inv := by
  have hrun := status_of_inv h hq
  obtain ⟨hwf, hin, -, -, -, hr⟩ := h
  refine ⟨hwf, hin, ?_, descriptorChecked_of_not_pastChecks rfl, lengthsBounded_of_not_pastRepack rfl, hr⟩
  rw [State.statusCoherent, raiseFail_status, hrun]
  simp [Seq.runningStatus, hc, hne]

theorem finish_inv {s : State} (h : s.Inv) (hq : s.seq = .mode) : (finish s).Inv := by
  have hrun := status_of_inv h (by simp [hq])
  obtain ⟨hcap, hlenw⟩ := textLength_fits h hq (outLen_bound h hq)
  obtain ⟨⟨hraw, hdw, hcor, hdst, hout, hmsg⟩, ⟨braw, bdw, bcor, bdst, bout, bmsg⟩, -, -, -, hr⟩ := h
  obtain ⟨hlegal, hmw, hcw, hcb, hrl, hcl, hte, -⟩ := hr
  refine ⟨⟨hraw, hdw, hcor, hdst, hout, writeFrom_wf _ _ _ hmsg⟩,
    ⟨braw, bdw, bcor, bdst, bout, writeFrom_below _ _ _ bmsg hcap⟩, ?_,
    descriptorChecked_of_not_pastChecks rfl, lengthsBounded_of_not_pastRepack rfl, ⟨hlegal, hmw, hcw, hcb, hrl, hcl, hte, hlenw⟩⟩
  rw [State.statusCoherent, finish_status, hrun, hq]
  simp [Seq.runningStatus, Seq.pastRepack, Cause.isFatal]

/-! ### Stages -/

theorem runChecks_inv {s : State} (h : s.Inv) (hq : s.seq = .checks) : (runChecks s).Inv := by
  cases hv : firstViolation s.params s.desc with
  | some c =>
    rw [runChecks_of_violation hv]
    exact raiseFatal_inv h (isFatal_of_firstViolation hv)
  | none =>
    rw [runChecks_of_pass hv]
    have hrun := status_of_inv h (by simp [hq])
    obtain ⟨hwf, hin, -, -, -, hr⟩ := h
    refine ⟨hwf, hin, (statusCoherent_iff_of_running (by simp)).mpr ?_, fun _ => hv, lengthsBounded_of_not_pastRepack rfl, hr⟩
    rw [hrun, hq]
    rfl

/-- Past the checks a stage runs with the width that the descriptor names. -/
theorem withWidth_inv {f : EccWidth → State → State} {s : State} (h : s.Inv) (hq : s.seq.pastChecks = true)
    (hf : ∀ w, s.desc.wordBits.toNat = w.bits → (f w s).Inv) : (withWidth f s).Inv := by
  obtain ⟨w, hw, hbits⟩ := exists_width_of_inv h hq
  rw [withWidth_of_some hw]
  exact hf w hbits

theorem splitStage_inv {s : State} (h : s.Inv) (hq : s.seq = .split) (w : EccWidth) : (splitStage w s).Inv := by
  have hrun := status_of_inv h (by simp [hq])
  have hv := checked_of_inv h (by rw [hq]; rfl)
  obtain ⟨-, -, -, -, -, -, hcap, -⟩ := firstViolation_eq_none_iff.mp hv
  obtain ⟨⟨hraw, hdw, hcor, hdst, hout, hmsg⟩, ⟨braw, bdw, bcor, bdst, bout, bmsg⟩, -, -, -, hr⟩ := h
  refine ⟨⟨hraw, writeFrom_wf _ _ _ hdw, hcor, hdst, hout, hmsg⟩,
    ⟨braw, writeFrom_below _ _ _ bdw hcap, bcor, bdst, bout, bmsg⟩,
    (statusCoherent_iff_of_running (by simp)).mpr ?_, fun _ => hv, lengthsBounded_of_not_pastRepack rfl, hr⟩
  rw [splitStage_status, hrun, hq]
  rfl

/-- Taking the corrector's answer: the words fit DW since `MSG_WORDS` is at most `CAP_WORDS`, the count is of `LENW` bits (R86). -/
theorem correctStage_inv {s : State} (h : s.Inv) (hq : s.seq = .correct) (w : EccWidth) : (correctStage w s).Inv := by
  unfold correctStage
  cases rsAnswer w s with
  | uncorrectable => exact raiseFail_inv h (by simp [hq]) rfl (by simp)
  | ok data count =>
    have hrun := status_of_inv h (by simp [hq])
    have hv := checked_of_inv h (by rw [hq]; rfl)
    obtain ⟨-, -, -, hmw, -, -, hcap, -⟩ := firstViolation_eq_none_iff.mp hv
    obtain ⟨⟨hraw, hdw, hcor, hdst, hout, hmsg⟩, ⟨braw, bdw, bcor, bdst, bout, bmsg⟩, -, -, -, hr⟩ := h
    obtain ⟨hlegal, hrmw, hrcw, hrcb, hrrl, hrcl, -, hrml⟩ := hr
    refine ⟨⟨hraw, writeFrom_wf _ _ _ hdw, hcor, hdst, hout, hmsg⟩,
      ⟨braw, writeFrom_below _ _ _ bdw (hmw.trans hcap), bcor, bdst, bout, bmsg⟩,
      (statusCoherent_iff_of_running (by simp [takeAnswer])).mpr ?_, fun _ => hv, lengthsBounded_of_not_pastRepack rfl,
      ⟨hlegal, hrmw, hrcw, hrcb, hrrl, hrcl, count.isLt, hrml⟩⟩
    simp only [takeAnswer]
    rw [hrun, hq]
    rfl

theorem repackStage_inv {s : State} (h : s.Inv) (hq : s.seq = .repack) {w : EccWidth} (hw : s.desc.wordBits.toNat = w.bits) :
    (repackStage w s).Inv := by
  have hrun := status_of_inv h (by simp [hq])
  have hv := checked_of_inv h (by rw [hq]; rfl)
  obtain ⟨-, -, -, -, -, -, -, hcap⟩ := firstViolation_eq_none_iff.mp hv
  rw [hw] at hcap
  obtain ⟨⟨hraw, hdw, hcor, hdst, hout, hmsg⟩, ⟨braw, bdw, bcor, bdst, bout, bmsg⟩, -, -, -, hr⟩ := h
  obtain ⟨hlegal, hrmw, hrcw, hrcb, hrrl, -, hrte, hrml⟩ := hr
  have ⟨_, _, hlenw⟩ := hlegal
  refine ⟨⟨hraw, hdw, memWrite_wf _ _ _ _ (repackWords_wf _ _ _ _ hcor), hdst, hout, hmsg⟩, ⟨braw, bdw, ?_, bdst, bout, bmsg⟩,
    (statusCoherent_iff_of_running (by simp)).mpr ?_, fun _ => hv, ?_,
    ⟨hlegal, hrmw, hrcw, hrcb, hrrl, hcap.trans_lt hlenw, hrte, hrml⟩⟩
  · refine memWrite_below _ _ _ _ (repackWords_below _ _ _ _ bcor (hcap.trans (le_wholeBytes _))) ?_
    rw [add_padCount]
    exact wholeBytes_mono hcap
  · rw [repackStage_status, hrun, hq]
    rfl
  · simp [State.lengthsBounded, State.dataCount, hw]

theorem stripCheck_inv {s : State} (h : s.Inv) (hq : s.seq = .stripCheck) (w : EccWidth) : (stripCheck w s).Inv := by
  unfold stripCheck
  split
  · exact raiseFatal_inv h rfl
  · have hrun := status_of_inv h (by simp [hq])
    have hv := checked_of_inv h (by rw [hq]; rfl)
    obtain ⟨hwf, hin, -, -, ⟨hcorLen, -⟩, hr⟩ := h
    refine ⟨hwf, hin, (statusCoherent_iff_of_running (by simp)).mpr ?_, fun _ => hv, ?_, hr⟩
    · rw [hrun, hq]
      rfl
    · simpa [State.lengthsBounded] using fun _ => hcorLen (by rw [hq]; rfl)

/-! ### The stripper's loop -/

theorem leaveStrip_inv {s : State} (h : s.Inv) (hq : s.seq = .strip) : (leaveStrip s).Inv := by
  have hrun := status_of_inv h (by simp [hq])
  have hv := checked_of_inv h (by rw [hq]; rfl)
  obtain ⟨hwf, hin, -, -, ⟨hcorLen, hstrip, -⟩, hr⟩ := h
  have hcorLen := hcorLen (by rw [hq]; rfl)
  obtain ⟨hk, hdst⟩ := hstrip hq
  have hle : s.dstLen ≤ s.results.corLen := by
    rw [hcorLen]
    exact hdst.trans (Nat.mul_le_mul_right _ hk)
  refine ⟨hwf, hin, (statusCoherent_iff_of_running (by simp)).mpr ?_, fun _ => hv,
    ⟨fun _ => hcorLen, by simp, fun _ => hle, by simp⟩, hr⟩
  rw [leaveStrip_status, hrun, hq]
  rfl

/-- The fetch of a word makes room in DST for the bits of one word (R102, R107). -/
theorem fetchWord_inv {s : State} (h : s.Inv) (hq : s.seq = .strip) (hk : s.stripPos < s.desc.msgWords) : (fetchWord s).Inv := by
  obtain ⟨hwf, hin, hst, hd, ⟨hcorLen, hstrip, hlater⟩, hr⟩ := h
  obtain ⟨-, hdst⟩ := hstrip hq
  have hroom : s.dstLen ≤ (s.stripPos + 1) * s.desc.wordBits.toNat := hdst.trans (Nat.mul_le_mul_right _ (Nat.le_succ _))
  exact ⟨hwf, hin, hst, hd, ⟨hcorLen, fun _ => ⟨hk, hroom⟩, hlater⟩, hr⟩

theorem appendBits_inv {s : State} {n : Nat} (v : Nat) (h : s.Inv) (hq : s.seq = .strip)
    (hn : s.dstLen + n ≤ s.stripPos * s.desc.wordBits.toNat) : (appendBits n v s).Inv := by
  have hcap := corLen_le_corCapBits h (by rw [hq]; rfl)
  obtain ⟨⟨hraw, hdw, hcor, hdst, hout, hmsg⟩, ⟨braw, bdw, bcor, bdst, bout, bmsg⟩, hst, hd, ⟨hcorLen, hstrip, -⟩, hr⟩ := h
  obtain ⟨hk, -⟩ := hstrip hq
  have hfit : s.dstLen + n ≤ s.params.corCapBits := by
    rw [hcorLen (by rw [hq]; rfl)] at hcap
    exact (hn.trans (Nat.mul_le_mul_right _ hk)).trans hcap
  refine ⟨⟨hraw, hdw, hcor, memWrite_wf _ _ _ _ hdst, hout, hmsg⟩,
    ⟨braw, bdw, bcor, memWrite_below _ _ _ _ bdst hfit, bout, bmsg⟩, hst, hd, ⟨hcorLen, fun _ => ⟨hk, hn⟩, ?_, ?_⟩, hr⟩ <;> simp [hq]

theorem stripWord_inv {s t : State} {w : EccWidth} (h : s.Inv) (hq : s.seq = .strip) (hw : s.desc.wordBits.toNat = w.bits)
    (hk : s.stripPos < s.wordsIn w) (ht : exec (decodeStuffed w (s.corWord w s.stripPos)) (fetchWord s) = .next t) : t.Inv := by
  have hwords : s.wordsIn w = s.desc.msgWords := by
    obtain ⟨-, -, -, -, ⟨hcorLen, -⟩, -⟩ := h
    rw [State.wordsIn, hcorLen (by rw [hq]; rfl), hw, Nat.mul_div_cancel _ (bits_pos w)]
  have hdst : s.dstLen ≤ s.stripPos * w.bits := by
    obtain ⟨-, -, -, -, ⟨-, hstrip, -⟩, -⟩ := h
    rw [← hw]
    exact (hstrip hq).2
  obtain ⟨n, v, hn, hx⟩ := exec_decodeStuffed w (s.corWord w s.stripPos) (fetchWord s)
  rw [hx] at ht
  cases ht
  refine appendBits_inv v (fetchWord_inv h hq (hwords ▸ hk)) hq ?_
  simp only [fetchWord_dstLen, fetchWord_stripPos, fetchWord_desc, hw, Nat.succ_mul]
  omega

/-! ### The symbol loop -/

theorem resetTransient_inv {s : State} (h : s.Inv) (hq : s.seq = .modeInit) : (resetTransient s).Inv := by
  have hrun := status_of_inv h (by simp [hq])
  have hv := checked_of_inv h (by rw [hq]; rfl)
  obtain ⟨hwf, hin, -, -, ⟨hcorLen, -, hdst, -⟩, hr⟩ := h
  have hcorLen := hcorLen (by rw [hq]; rfl)
  have hdst := hdst (.inl hq)
  refine ⟨hwf, hin, (statusCoherent_iff_of_running (by simp)).mpr ?_, fun _ => hv,
    ⟨fun _ => hcorLen, by simp, fun _ => hdst, by simp⟩, hr⟩
  rw [resetTransient_status, hrun, hq]
  rfl

theorem fetchSymbol_inv {s : State} (h : s.Inv) (hq : s.seq = .mode) (hb : symWidth s.params.byteWidth s.md.mode ≤ s.bitsLeft) :
    (fetchSymbol s).Inv := by
  obtain ⟨hwf, hin, hst, hd, ⟨hcorLen, hstrip, hdst, hmode⟩, hr⟩ := h
  obtain ⟨hpos, hout⟩ := hmode hq
  refine ⟨hwf, hin, hst, hd, ⟨hcorLen, hstrip, hdst, fun _ => ?_⟩, hr⟩
  simp only [fetchSymbol_md, fetchSymbol_dstLen]
  simp only [State.bitsLeft] at hb
  omega

theorem beginSymbol_inv {s : State} (h : s.Inv) : (beginSymbol s).Inv := h

theorem latchTo_inv {s : State} (h : s.Inv) (m : Mode) : (latchTo m s).Inv := h

theorem shiftTo_inv {s : State} (h : s.Inv) (m : Mode) : (shiftTo m s).Inv := h

theorem endSymbol_inv {s : State} (h : s.Inv) (v : Nat) : (endSymbol v s).Inv := by
  obtain ⟨hwf, hin, hst, hd, ⟨hcorLen, hstrip, hdst, hmode⟩, hr⟩ := h
  refine ⟨hwf, hin, hst, hd, ⟨hcorLen, hstrip, hdst, fun hq => ?_⟩, hr⟩
  simpa using hmode hq

theorem appendChar_inv {s : State} (c : Char8) (h : s.Inv) (hq : s.seq = .mode) (hroom : 5 * (s.md.outLen + 1) ≤ 2 * s.md.pos) :
    (appendChar c s).Inv := by
  obtain ⟨hcap, -⟩ := textLength_fits h hq hroom
  obtain ⟨⟨hraw, hdw, hcor, hdst, hout, hmsg⟩, ⟨braw, bdw, bcor, bdst, bout, bmsg⟩, hst, hd, ⟨hcorLen, hstrip, hlen, hmode⟩, hr⟩ := h
  obtain ⟨hpos, -⟩ := hmode hq
  exact ⟨⟨hraw, hdw, hcor, hdst, Memory.wf_write _ _ _ hout, hmsg⟩,
    ⟨braw, bdw, bcor, bdst, Memory.below_write _ _ _ bout hcap, bmsg⟩, hst, hd, ⟨hcorLen, hstrip, hlen, fun _ => ⟨hpos, hroom⟩⟩, hr⟩

theorem appendChars_inv {s : State} (c1 : Char8) (c2 : Option Char8) (h : s.Inv) (hq : s.seq = .mode)
    (hroom : 5 * (s.md.outLen + (Action.appendChars c1 c2).charCount) ≤ 2 * s.md.pos) : (appendChars c1 c2 s).Inv := by
  cases c2 with
  | none => exact appendChar_inv c1 h hq hroom
  | some c =>
    simp only [Action.charCount, Option.toList_some, List.length_singleton] at hroom
    refine appendChar_inv c (appendChar_inv c1 h hq (by omega)) hq ?_
    simp only [appendChar_md]
    omega

/-- A symbol with room for its characters keeps the invariant. -/
theorem runSymbol_inv {s t : State} {v : Nat} {a : Action} (h : s.Inv) (hq : s.seq = .mode)
    (hroom : 5 * (s.md.outLen + a.charCount) ≤ 2 * s.md.pos)
    (hfail : ∀ c, a = .failSym c → c.isFatal = false ∧ c ≠ .noCause) (ht : runSymbol v a s = .next t) : t.Inv := by
  cases a with
  | appendChars c1 c2 => cases ht; exact endSymbol_inv (appendChars_inv c1 c2 (beginSymbol_inv h) hq hroom) v
  | latch m => cases ht; exact endSymbol_inv (latchTo_inv (beginSymbol_inv h) m) v
  | shift m => cases ht; exact endSymbol_inv (shiftTo_inv (beginSymbol_inv h) m) v
  | failSym c =>
    cases ht
    obtain ⟨hc, hne⟩ := hfail c rfl
    exact raiseFail_inv (beginSymbol_inv h) (by simp [hq]) hc hne

theorem symbolTurn_inv {s t : State} (h : s.Inv) (hq : s.seq = .mode) (hb : symWidth s.params.byteWidth s.md.mode ≤ s.bitsLeft)
    (ht : exec (decodeSymbol s.md.mode s.symbolValue) (fetchSymbol s) = .next t) : t.Inv := by
  have hctx := decodeSymbol_ctx s.md.mode s.symbolValue
  obtain ⟨a, ha⟩ := symbolAction_isSome hctx
  have hcount := charCount_le_symWidth s.params.byteWidth hctx ha
  have hout := outLen_bound h hq
  rw [exec_symbol _ ha] at ht
  refine runSymbol_inv (fetchSymbol_inv h hq hb) hq ?_ (fun c hc => cause_of_failSym (hc ▸ ha)) ht
  simp only [fetchSymbol_md]
  omega

/-! ### The block and the host -/

theorem blockStep_inv {s t : State} (h : s.Inv) (ht : blockStep s = .next t) : t.Inv := by
  rcases blockStep_cases ht with ⟨-, rfl⟩ | ⟨hq, rfl⟩ | ⟨hq, rfl⟩ | ⟨hq, rfl⟩ | ⟨hq, rfl⟩ | ⟨hq, rfl⟩ | ⟨-, -, rfl⟩ |
    ⟨w, hq, hw, hk, hx⟩ | ⟨w, hq, -, -, rfl⟩ | ⟨hq, rfl⟩ | ⟨hq, -, rfl⟩ | ⟨hq, hb, hx⟩
  · exact h
  · exact runChecks_inv h hq
  · exact withWidth_inv h (by rw [hq]; rfl) fun w _ => splitStage_inv h hq w
  · exact withWidth_inv h (by rw [hq]; rfl) fun w _ => correctStage_inv h hq w
  · exact withWidth_inv h (by rw [hq]; rfl) fun w hw => repackStage_inv h hq hw
  · exact withWidth_inv h (by rw [hq]; rfl) fun w _ => stripCheck_inv h hq w
  · exact raiseFatal_inv h rfl
  · exact stripWord_inv h hq (eq_bits_of_ofBits? hw) hk hx
  · exact leaveStrip_inv h hq
  · exact resetTransient_inv h hq
  · exact finish_inv h hq
  · exact symbolTurn_inv h hq hb hx

theorem acceptStart_inv {s : State} (h : s.Inv) (hfatal : s.status.fatal = false) : (acceptStart s).Inv := by
  obtain ⟨hwf, hin, -, -, -, hr⟩ := h
  refine ⟨hwf, hin, (statusCoherent_iff_of_running (by simp)).mpr ?_, descriptorChecked_of_not_pastChecks rfl,
    lengthsBounded_of_not_pastRepack rfl, hr⟩
  simp [Seq.runningStatus, Status.start, hfatal, Seq.pastRepack, Seq.stage]

theorem fitLen_lt (s : State) (v : Nat) : s.fitLen v < 2 ^ s.params.lenw := Nat.mod_lt _ (Nat.two_pow_pos _)

theorem idle_of_not_busy {s : State} (h : s.Inv) (hb : s.status.busy = false) : s.seq = .idle := by
  obtain ⟨-, -, ⟨hbusy, -⟩, -⟩ := h
  simpa [hb] using hbusy

/-- Between decodes the descriptor's registers may hold any values of `LENW` bits. -/
theorem withDesc_inv {s : State} {d : Descriptor} (h : s.Inv) (hq : s.seq = .idle) (hmw : d.msgWords < 2 ^ s.params.lenw)
    (hcw : d.capWords < 2 ^ s.params.lenw) (hcb : d.capBits < 2 ^ s.params.lenw) (hrl : d.rawLen < 2 ^ s.params.lenw) :
    { s with desc := d }.Inv := by
  obtain ⟨hwf, hin, hst, -, -, ⟨hlegal, -, -, -, -, hres⟩⟩ := h
  exact ⟨hwf, hin, hst, descriptorChecked_of_not_pastChecks (by simp [hq, Seq.pastChecks]),
    lengthsBounded_of_not_pastRepack (by simp [hq, Seq.pastRepack]), ⟨hlegal, hmw, hcw, hcb, hrl, hres⟩⟩

theorem writeReg_inv {s : State} {w : RegWrite} (h : s.Inv) (hidle : s.status.busy = true → (HostOp.writeReg w).needsIdle = false) :
    (writeReg w s).Inv := by
  have hfit := fitLen_lt s
  have ⟨_, _, _, _, _, ⟨_, hmw, hcw, hcb, hrl, _⟩⟩ := h
  have hq : (HostOp.writeReg w).needsIdle = true → s.seq = .idle := fun hn => idle_of_not_busy h (by simpa [hn] using hidle)
  cases w with
  | dataLayers v => exact withDesc_inv h (hq rfl) hmw hcw hcb hrl
  | wordBits v => exact withDesc_inv h (hq rfl) hmw hcw hcb hrl
  | msgWords v => exact withDesc_inv h (hq rfl) (hfit v) hcw hcb hrl
  | capWords v => exact withDesc_inv h (hq rfl) hmw (hfit v) hcb hrl
  | capBits v => exact withDesc_inv h (hq rfl) hmw hcw (hfit v) hrl
  | rawLen v => exact withDesc_inv h (hq rfl) hmw hcw hcb (hfit v)
  | ctrl v =>
    rcases writeCtrl_cases v s with ⟨-, -, hfatal, hx⟩ | hx
    · rw [writeReg, hx]; exact acceptStart_inv h hfatal
    · rw [writeReg, hx]; exact h

theorem writeRawByte_inv {s : State} {i : Nat} (v : Nat) (h : s.Inv) (hi : byteWithin s.params.rawCapBits i = true) :
    { s with raw := memWrite s.raw (8 * i) 8 v }.Inv := by
  obtain ⟨⟨hraw, hwf⟩, ⟨braw, hin⟩, hst, hd, hl, hr⟩ := h
  have hfit : 8 * i + 8 ≤ wholeBytes s.params.rawCapBits := by
    simp only [byteWithin, decide_eq_true_eq] at hi
    simp only [wholeBytes]
    omega
  exact ⟨⟨memWrite_wf _ _ _ _ hraw, hwf⟩, ⟨memWrite_below _ _ _ _ braw hfit, hin⟩, hst, hd, hl, hr⟩

theorem hardReset_inv {s : State} (h : s.Inv) : (hardReset s).Inv := by
  obtain ⟨-, -, -, -, -, ⟨hlegal, -⟩⟩ := h
  refine ⟨by simp [State.buffersWf, hardReset, State.reset, Memory.wf],
    by simp [State.buffersWithin, hardReset, State.reset, Memory.below],
    by simp [State.statusCoherent, hardReset, State.reset, Cause.isFatal], descriptorChecked_of_not_pastChecks rfl,
    lengthsBounded_of_not_pastRepack rfl, ⟨hlegal, ?_⟩⟩
  simp [hardReset, State.reset]

theorem hostAccess_inv {s t : State} {op : HostOp} (h : s.Inv) (ht : hostAccess op s = .next t) : t.Inv := by
  obtain ⟨hidle, hcases⟩ := hostAccess_cases ht
  rcases hcases with ⟨w, rfl, rfl⟩ | ⟨i, b, -, hi, rfl⟩ | ⟨v, rfl⟩ | ⟨-, rfl⟩
  · exact writeReg_inv h hidle
  · exact writeRawByte_inv b.toNat h hi
  · exact h
  · exact hardReset_inv h

/-- The host's queue is no part of the invariant. -/
theorem withHost_inv {s : State} (h : s.Inv) (q : List HostMove) : { s with host := q }.Inv := h

theorem tick_inv {s : State} (h : s.Inv) : s.tick.Inv := by
  unfold State.tick
  split
  · exact withHost_inv h _
  · exact h

/-- Settles O58: a step is a host move or a step of the block, and each keeps the invariant. -/
theorem stepKeepsInvariant : Obligations.StepKeepsInvariant := by
  intro s t h ht
  rcases step_cases ht with ⟨op, rest, -, hx⟩ | ⟨-, hx⟩
  · exact hostAccess_inv (withHost_inv h rest) hx
  · exact blockStep_inv (tick_inv h) hx

end Sys2Proof.Machine
end

section
/-! SUPPORT. Who writes what (O46): what the block leaves of the host's registers and of RAW, and what a host move leaves of the block's
outputs. -/

namespace Sys2Proof.Machine

/-! ### What the block leaves -/

/-- The parameters, the descriptor registers and RAW are as before (R6, R11, R21). -/
def State.hostSideKept (s t : State) : Prop := t.params = s.params ∧ t.desc = s.desc ∧ t.raw = s.raw

/-- A property of both ways a stage can go, with its width or without a legal one (R70), is a property of the stage. -/
theorem withWidth_of_forall {P : State → Prop} {f : EccWidth → State → State} {s : State} (hfatal : P (raiseFatal .badWordBits s))
    (hf : ∀ w, P (f w s)) : P (withWidth f s) := by
  unfold withWidth
  split
  · exact hf _
  · exact hfatal

theorem hostSideKept_of_symbolDone {s t : State} {v : Nat} {m : Mode} {shifted : Bool} {cs : List Char8}
    (h : s.symbolDone t v m shifted cs) : s.hostSideKept t := by
  obtain ⟨-, -, -, -, -, -, -, hparams, hdesc, -, -, hraw, -⟩ := h
  exact ⟨hparams, hdesc, hraw⟩

theorem hostSideKept_of_symbolFailed {s t : State} {c : Cause} (h : s.symbolFailed t c) : s.hostSideKept t := by
  obtain ⟨-, -, -, -, -, -, -, -, -, -, -, -, -, -, -, hparams, hdesc, -, hraw, -⟩ := h
  exact ⟨hparams, hdesc, hraw⟩

theorem exec_hostSideKept {i : Instr} {s t : State} (h : exec i s = .next t) : s.hostSideKept t := by
  rcases exec_cases h with ⟨_, _, -, hdone⟩ | ⟨_, -, hdone⟩ | ⟨_, -, hdone⟩ | ⟨_, -, hfailed⟩ | ⟨-, _, _, rfl⟩
  · exact hostSideKept_of_symbolDone hdone
  · exact hostSideKept_of_symbolDone hdone
  · exact hostSideKept_of_symbolDone hdone
  · exact hostSideKept_of_symbolFailed hfailed
  · exact ⟨rfl, rfl, rfl⟩

theorem runChecks_hostSideKept (s : State) : s.hostSideKept (runChecks s) := by
  unfold runChecks
  split <;> exact ⟨rfl, rfl, rfl⟩

theorem correctStage_hostSideKept (w : EccWidth) (s : State) : s.hostSideKept (correctStage w s) := by
  unfold correctStage
  cases rsAnswer w s <;> exact ⟨rfl, rfl, rfl⟩

theorem stripCheck_hostSideKept (w : EccWidth) (s : State) : s.hostSideKept (stripCheck w s) := by
  unfold stripCheck
  split <;> exact ⟨rfl, rfl, rfl⟩

theorem blockStep_hostSideKept {s t : State} (h : blockStep s = .next t) : s.hostSideKept t := by
  have hfatal : s.hostSideKept (raiseFatal .badWordBits s) := ⟨rfl, rfl, rfl⟩
  rcases blockStep_cases h with ⟨-, rfl⟩ | ⟨-, rfl⟩ | ⟨-, rfl⟩ | ⟨-, rfl⟩ | ⟨-, rfl⟩ | ⟨-, rfl⟩ | ⟨-, -, rfl⟩ |
    ⟨w, -, -, -, hx⟩ | ⟨w, -, -, -, rfl⟩ | ⟨-, rfl⟩ | ⟨-, -, rfl⟩ | ⟨-, -, hx⟩
  · exact ⟨rfl, rfl, rfl⟩
  · exact runChecks_hostSideKept s
  · exact withWidth_of_forall hfatal fun _ => ⟨rfl, rfl, rfl⟩
  · exact withWidth_of_forall hfatal fun w => correctStage_hostSideKept w s
  · exact withWidth_of_forall hfatal fun _ => ⟨rfl, rfl, rfl⟩
  · exact withWidth_of_forall hfatal fun w => stripCheck_hostSideKept w s
  · exact hfatal
  · exact exec_hostSideKept (s := fetchWord s) hx
  · exact ⟨rfl, rfl, rfl⟩
  · exact ⟨rfl, rfl, rfl⟩
  · exact ⟨rfl, rfl, rfl⟩
  · exact exec_hostSideKept (s := fetchSymbol s) hx

theorem hostSideKept_of_tick {s t : State} (h : s.tick.hostSideKept t) : s.hostSideKept t := by
  simpa [State.hostSideKept] using h

/-! ### What a host move leaves -/

/-- The output registers, the transient state, every buffer but RAW, and the trace are as before (R11, R21). -/
def State.outputsKept (s t : State) : Prop :=
  t.results = s.results ∧ t.md = s.md ∧ t.dw = s.dw ∧ t.cor = s.cor ∧ t.dst = s.dst ∧ t.dstLen = s.dstLen ∧ t.out = s.out ∧
    t.msg = s.msg ∧ t.trace = s.trace

/-- A register write reaches a descriptor register, or through START the status and the driver's place, and nothing else. -/
theorem writeReg_frame (w : RegWrite) (s : State) :
    writeReg w s = { s with desc := (writeReg w s).desc, status := (writeReg w s).status, seq := (writeReg w s).seq } := by
  cases w with
  | ctrl v => rcases writeCtrl_cases v s with ⟨-, -, -, hx⟩ | hx <;> simp [writeReg, hx, acceptStart]
  | _ => rfl

/-- The one register write that is a move while the block is busy, that of `CTRL`, leaves the descriptor (R272, R273). -/
theorem writeReg_desc_of_not_needsIdle {w : RegWrite} (h : (HostOp.writeReg w).needsIdle = false) (s : State) :
    (writeReg w s).desc = s.desc := by
  cases w with
  | ctrl v => rcases writeCtrl_cases v s with ⟨-, -, -, hx⟩ | hx <;> simp [writeReg, hx, acceptStart]
  | _ => cases h

theorem hostAccess_outputsKept {op : HostOp} {s t : State} (h : hostAccess op s = .next t) (hop : op ≠ .hardReset) :
    s.outputsKept t := by
  obtain ⟨-, hcases⟩ := hostAccess_cases h
  rcases hcases with ⟨w, -, rfl⟩ | ⟨i, b, -, -, rfl⟩ | ⟨v, rfl⟩ | ⟨hreset, -⟩
  · rw [writeReg_frame]
    exact ⟨rfl, rfl, rfl, rfl, rfl, rfl, rfl, rfl, rfl⟩
  · exact ⟨rfl, rfl, rfl, rfl, rfl, rfl, rfl, rfl, rfl⟩
  · exact ⟨rfl, rfl, rfl, rfl, rfl, rfl, rfl, rfl, rfl⟩
  · exact absurd hreset hop

theorem hostAccess_params {op : HostOp} {s t : State} (h : hostAccess op s = .next t) : t.params = s.params := by
  obtain ⟨-, hcases⟩ := hostAccess_cases h
  rcases hcases with ⟨w, -, rfl⟩ | ⟨i, b, -, -, rfl⟩ | ⟨v, rfl⟩ | ⟨-, rfl⟩
  · rw [writeReg_frame]
  · rfl
  · rfl
  · rfl

/-- The host moves that change the descriptor or RAW (R11, R52). -/
theorem hostAccess_of_descriptor_or_raw_changed {op : HostOp} {s t : State} (h : hostAccess op s = .next t)
    (hchange : t.desc ≠ s.desc ∨ t.raw ≠ s.raw) :
    op = .hardReset ∨ (s.status.busy = false ∧ ((∃ w, op = .writeReg w) ∨ ∃ i b, op = .writeRawByte i b)) := by
  obtain ⟨hidle, hcases⟩ := hostAccess_cases h
  rcases hcases with ⟨w, rfl, rfl⟩ | ⟨i, b, rfl, -, -⟩ | ⟨v, rfl⟩ | ⟨rfl, -⟩
  · have hraw : (writeReg w s).raw = s.raw := by rw [writeReg_frame]
    have hbusy : s.status.busy = false := by
      by_contra hb
      have hdesc := writeReg_desc_of_not_needsIdle (hidle (by simpa using hb)) s
      exact hchange.elim (· hdesc) (· hraw)
    exact .inr ⟨hbusy, .inl ⟨w, rfl⟩⟩
  · have hbusy : s.status.busy = false := by simpa [HostOp.needsIdle] using hidle
    exact .inr ⟨hbusy, .inr ⟨i, b, rfl⟩⟩
  · exact absurd hchange (by simp)
  · exact .inl rfl

/-! ### Steps -/

theorem step_params {s t : State} (h : step s = .next t) : t.params = s.params := by
  rcases step_cases h with ⟨op, rest, -, hx⟩ | ⟨-, hx⟩
  · exact hostAccess_params (s := { s with host := rest }) hx
  · obtain ⟨hparams, -⟩ := hostSideKept_of_tick (blockStep_hostSideKept hx)
    exact hparams

/-- Settles O46: a block step leaves the host's side as it is, and each host move writes only what `hostAccess_cases` lists. -/
theorem hostAndBlockWriteTheirOwn : Obligations.HostAndBlockWriteTheirOwn := by
  refine ⟨fun s t h hchange => ?_, fun s t op rest hdue hop h => ?_, fun s t h => step_params h⟩
  · rcases step_cases h with ⟨op, rest, hdue, hx⟩ | ⟨-, hx⟩
    · exact ⟨op, rest, hdue, hostAccess_of_descriptor_or_raw_changed (s := { s with host := rest }) hx hchange⟩
    · obtain ⟨-, hdesc, hraw⟩ := hostSideKept_of_tick (blockStep_hostSideKept hx)
      exact absurd hchange (by simp [hdesc, hraw])
  · rw [step_of_due hdue] at h
    exact hostAccess_outputsKept (s := { s with host := rest }) h hop

end Sys2Proof.Machine
end

section
/-! SUPPORT. The canonical form of the six buffers is kept by every step (O57): one lemma per operation that writes a buffer, then the
step. -/

namespace Sys2Proof.Machine

/-! ### Stages -/

theorem runChecks_buffersWf {s : State} (h : s.buffersWf) : (runChecks s).buffersWf := by
  unfold runChecks
  split <;> exact h

theorem splitStage_buffersWf {s : State} (h : s.buffersWf) (w : EccWidth) : (splitStage w s).buffersWf := by
  obtain ⟨hraw, hdw, hrest⟩ := h
  exact ⟨hraw, writeFrom_wf _ _ _ hdw, hrest⟩

theorem correctStage_buffersWf {s : State} (h : s.buffersWf) (w : EccWidth) : (correctStage w s).buffersWf := by
  unfold correctStage
  cases rsAnswer w s with
  | uncorrectable => exact h
  | ok data count =>
    obtain ⟨hraw, hdw, hrest⟩ := h
    exact ⟨hraw, writeFrom_wf _ _ _ hdw, hrest⟩

theorem repackStage_buffersWf {s : State} (h : s.buffersWf) (w : EccWidth) : (repackStage w s).buffersWf := by
  obtain ⟨hraw, hdw, hcor, hrest⟩ := h
  exact ⟨hraw, hdw, memWrite_wf _ _ _ _ (repackWords_wf _ _ _ _ hcor), hrest⟩

theorem stripCheck_buffersWf {s : State} (h : s.buffersWf) (w : EccWidth) : (stripCheck w s).buffersWf := by
  unfold stripCheck
  split <;> exact h

theorem finish_buffersWf {s : State} (h : s.buffersWf) : (finish s).buffersWf := by
  obtain ⟨hraw, hdw, hcor, hdst, hout, hmsg⟩ := h
  exact ⟨hraw, hdw, hcor, hdst, hout, writeFrom_wf _ _ _ hmsg⟩

/-! ### Code words -/

theorem appendBits_buffersWf {s : State} (h : s.buffersWf) (n v : Nat) : (appendBits n v s).buffersWf := by
  obtain ⟨hraw, hdw, hcor, hdst, hrest⟩ := h
  exact ⟨hraw, hdw, hcor, memWrite_wf _ _ _ _ hdst, hrest⟩

theorem appendChar_buffersWf {s : State} (h : s.buffersWf) (c : Char8) : (appendChar c s).buffersWf := by
  obtain ⟨hraw, hdw, hcor, hdst, hout, hmsg⟩ := h
  exact ⟨hraw, hdw, hcor, hdst, Memory.wf_write _ _ _ hout, hmsg⟩

theorem appendChars_buffersWf {s : State} (h : s.buffersWf) (c1 : Char8) (c2 : Option Char8) : (appendChars c1 c2 s).buffersWf := by
  cases c2 with
  | none => exact appendChar_buffersWf h c1
  | some c => exact appendChar_buffersWf (appendChar_buffersWf h c1) c

/-- Of a symbol's dispatch results only the characters reach a buffer (R115 to R119). -/
theorem runSymbol_buffersWf {s t : State} {v : Nat} {a : Action} (h : s.buffersWf) (ht : runSymbol v a s = .next t) :
    t.buffersWf := by
  have hbegin : (beginSymbol s).buffersWf := h
  cases a with
  | appendChars c1 c2 => cases ht; exact appendChars_buffersWf hbegin c1 c2
  | latch m => cases ht; exact h
  | shift m => cases ht; exact h
  | failSym c => cases ht; exact h

theorem exec_buffersWf {i : Instr} {s t : State} (h : s.buffersWf) (ht : exec i s = .next t) : t.buffersWf := by
  cases ha : symbolAction i with
  | some a =>
    rw [exec_symbol s ha] at ht
    exact runSymbol_buffersWf h ht
  | none =>
    obtain ⟨n, v, hx⟩ := exec_word s ha
    rw [hx] at ht
    cases ht
    exact appendBits_buffersWf h n v

/-! ### The block and the host -/

theorem blockStep_buffersWf {s t : State} (h : s.buffersWf) (ht : blockStep s = .next t) : t.buffersWf := by
  rcases blockStep_cases ht with ⟨-, rfl⟩ | ⟨-, rfl⟩ | ⟨-, rfl⟩ | ⟨-, rfl⟩ | ⟨-, rfl⟩ | ⟨-, rfl⟩ | ⟨-, -, rfl⟩ |
    ⟨w, -, -, -, hx⟩ | ⟨w, -, -, -, rfl⟩ | ⟨-, rfl⟩ | ⟨-, -, rfl⟩ | ⟨-, -, hx⟩
  · exact h
  · exact runChecks_buffersWf h
  · exact withWidth_of_forall h (splitStage_buffersWf h)
  · exact withWidth_of_forall h (correctStage_buffersWf h)
  · exact withWidth_of_forall h (repackStage_buffersWf h)
  · exact withWidth_of_forall h (stripCheck_buffersWf h)
  · exact h
  · exact exec_buffersWf (s := fetchWord s) h hx
  · exact h
  · exact h
  · exact finish_buffersWf h
  · exact exec_buffersWf (s := fetchSymbol s) h hx

/-- No buffer lists an element after reset. -/
theorem reset_buffersWf : State.reset.buffersWf := ⟨rfl, rfl, rfl, rfl, rfl, rfl⟩

theorem hostAccess_buffersWf {op : HostOp} {s t : State} (h : s.buffersWf) (ht : hostAccess op s = .next t) : t.buffersWf := by
  obtain ⟨-, hcases⟩ := hostAccess_cases ht
  rcases hcases with ⟨w, -, rfl⟩ | ⟨i, b, -, -, rfl⟩ | ⟨v, rfl⟩ | ⟨-, rfl⟩
  · rw [writeReg_frame]
    exact h
  · obtain ⟨hraw, hrest⟩ := h
    exact ⟨memWrite_wf _ _ _ _ hraw, hrest⟩
  · exact h
  · exact reset_buffersWf

theorem tick_buffersWf {s : State} (h : s.buffersWf) : s.tick.buffersWf := by
  simpa [State.buffersWf] using h

/-- Settles O57: a step is a host move or a step of the block, and each keeps the canonical form. -/
theorem stepKeepsBuffersCanonical : Obligations.StepKeepsBuffersCanonical := by
  intro s t h ht
  rcases step_cases ht with ⟨op, rest, -, hx⟩ | ⟨-, hx⟩
  · exact hostAccess_buffersWf (s := { s with host := rest }) h hx
  · exact blockStep_buffersWf (tick_buffersWf h) hx

end Sys2Proof.Machine
end

section
/-! SUPPORT. The `STATUS` word (O38) and the state after hardware reset (O40, O56). -/

namespace Sys2Proof.Machine

/-! ### The `STATUS` word (R13) -/

/-- Every bit of the word: the six flags, then the four bits of `CAUSE`, then `STAGE` (R13). -/
theorem Status.word_getLsbD (st : Status) (i : Nat) :
    st.word.getLsbD i =
      if i < 6 then [st.busy, st.done, st.ok, st.fatal, st.corValid, st.msgValid].getD i false
      else if i < 10 then st.cause.code.getLsbD (i - 6) else st.stage.getLsbD (i - 10) := by
  change BitVec.getLsbD (w := 2 + 4 + 1 + 1 + 1 + 1 + 1 + 1) _ i = _
  simp only [Status.word, BitVec.getLsbD_append]
  by_cases hi : i < 6
  · interval_cases i <;> simp
  · obtain ⟨j, rfl⟩ := Nat.exists_eq_add_of_le' (Nat.le_of_not_lt hi)
    have hcause : j + 6 < 10 ↔ j < 4 := by omega
    by_cases hj : j < 4 <;> simp [hcause, hj]

theorem Status.word_cause (st : Status) : st.word.extractLsb' 6 4 = st.cause.code := by
  refine BitVec.eq_of_getLsbD_eq fun i hi => ?_
  rw [BitVec.getLsbD_extractLsb', Status.word_getLsbD, if_neg (by omega), if_pos (by omega)]
  simp [hi]

theorem Status.word_stage (st : Status) : st.word.extractLsb' 10 2 = st.stage := by
  refine BitVec.eq_of_getLsbD_eq fun i hi => ?_
  rw [BitVec.getLsbD_extractLsb', Status.word_getLsbD, if_neg (by omega), if_neg (by omega)]
  simp [hi]

/-- No two causes have the same number (R233). -/
theorem Cause.code_injective : Function.Injective Cause.code := by
  intro c c' h
  cases c <;> cases c' <;> cases h <;> rfl

theorem Status.word_layout (st : Status) :
    st.word.getLsbD 0 = st.busy ∧ st.word.getLsbD 1 = st.done ∧ st.word.getLsbD 2 = st.ok ∧ st.word.getLsbD 3 = st.fatal ∧
      st.word.getLsbD 4 = st.corValid ∧ st.word.getLsbD 5 = st.msgValid ∧
      st.word.extractLsb' 6 4 = st.cause.code ∧ st.word.extractLsb' 10 2 = st.stage :=
  ⟨st.word_getLsbD 0, st.word_getLsbD 1, st.word_getLsbD 2, st.word_getLsbD 3, st.word_getLsbD 4, st.word_getLsbD 5,
    st.word_cause, st.word_stage⟩

/-- Every field can be read off the word. -/
theorem Status.word_injective : Function.Injective Status.word := by
  intro st st' h
  obtain ⟨hbusy, hdone, hok, hfatal, hcor, hmsg, hcause, hstage⟩ := st.word_layout
  obtain ⟨hbusy', hdone', hok', hfatal', hcor', hmsg', hcause', hstage'⟩ := st'.word_layout
  rw [h] at hbusy hdone hok hfatal hcor hmsg hcause hstage
  cases st
  cases st'
  simp_all [Cause.code_injective.eq_iff]

/-- Settles O38: the fields are read off the word bit by bit, and the cause codes differ. -/
theorem statusWordLayout : Obligations.StatusWordLayout :=
  ⟨Status.word_layout, fun _ _ h => Status.word_injective h⟩

/-! ### The state after hardware reset (R26, R6) -/

/-- A START before a descriptor is loaded ends at the first check: a width of 0 is no legal width (R26, R237). -/
theorem start_without_descriptor :
    ∃ t, runFor 2 { State.reset with host := [{ after := 0, op := .writeReg (.ctrl 1) }] } = .next t ∧
      t.seq = .idle ∧ t.status.fatal = true ∧ t.status.cause = .badWordBits := by
  have hstart : step { State.reset with host := [{ after := 0, op := .writeReg (.ctrl 1) }] } = .next (acceptStart State.reset) := rfl
  have hcheck : step (acceptStart State.reset) = .next (raiseFatal .badWordBits (acceptStart State.reset)) := by
    rw [step_of_silent rfl, blockStep_checks rfl, runChecks_of_violation rfl]
  exact ⟨raiseFatal .badWordBits (acceptStart State.reset), by rw [runFor_succ hstart, runFor_succ hcheck, runFor_zero], rfl, rfl, rfl⟩

/-- Settles O40: the values by evaluation of the reset state, the fatal START by its two steps. -/
theorem resetValues : Obligations.ResetValues :=
  ⟨rfl, rfl, by decide, rfl, rfl, rfl, rfl, rfl, fun _ => ⟨rfl, rfl, rfl, rfl, rfl, rfl⟩, start_without_descriptor⟩

theorem reset_statusCoherent : State.reset.statusCoherent := by
  simp [State.statusCoherent, State.reset, Cause.isFatal]

/-- The values R6 gives the parameters are legal. -/
theorem Params.standard_legal : Params.standard.Legal := by decide

theorem reset_registersFit : State.reset.registersFit := by
  refine ⟨Params.standard_legal, ?_⟩
  simp [State.reset]

/-- Settles O56: no buffer element is listed, the block is idle, every register is 0, and R6's values are legal. -/
theorem resetMeetsInvariant : Obligations.ResetMeetsInvariant :=
  ⟨reset_buffersWf, ⟨rfl, rfl, rfl, rfl, rfl, rfl⟩, reset_statusCoherent, descriptorChecked_of_not_pastChecks rfl,
    lengthsBounded_of_not_pastRepack rfl, reset_registersFit⟩

end Sys2Proof.Machine
end

section
/-! SUPPORT. The host's register writes, register reads and MSG reads while the block is not busy (O43, O44, O48). -/

namespace Sys2Proof.Machine

/-! ### A due move of an idle block (R52) -/

variable {s : State} {rest : List HostMove}

theorem step_writeReg {w : RegWrite} (hbusy : s.status.busy = false) (hdue : s.due = some (.writeReg w, rest)) :
    step s = .next (writeReg w { s with host := rest }) := by
  simp [step_of_due hdue, hostAccess, hbusy]

theorem step_readReg {r : Reg} (hbusy : s.status.busy = false) (hdue : s.due = some (.readReg r, rest)) :
    step s = .next (hostTakes (regWord s r) { s with host := rest }) := by
  have hword : regWord { s with host := rest } r = regWord s r := by cases r <;> rfl
  simp [step_of_due hdue, hostAccess, hbusy, hword]

theorem step_readMsg {i : Nat} (hbusy : s.status.busy = false) (hdue : s.due = some (.readMsg i, rest)) :
    step s = ifElement (decide (i < s.params.msgCap)) (hostTakes (s.msgChar i).toNat { s with host := rest }) := by
  have hchar : State.msgChar { s with host := rest } i = s.msgChar i := rfl
  simp [step_of_due hdue, hostAccess, hbusy, hchar]

/-- A value of `LENW` bits is stored as it is; a wider one loses its high bits (log 17). -/
theorem fitLen_eq_ite (s : State) (v : Nat) : s.fitLen v = if v < 2 ^ s.params.lenw then v else v % 2 ^ s.params.lenw := by
  split
  · exact Nat.mod_eq_of_lt ‹_›
  · rfl

/-- Settles O43: the write is admitted, and each register takes the value written. -/
theorem hostWritesAreStored : Obligations.HostWritesAreStored := by
  intro s rest hbusy
  refine ⟨fun v hdue => step_writeReg hbusy hdue, fun v hdue => step_writeReg hbusy hdue, ?_, ?_, ?_, ?_⟩ <;>
    (intro v hdue; rw [step_writeReg hbusy hdue, ← fitLen_eq_ite]; rfl)

/-- Settles O44: the read is admitted, and the port takes the register's word. -/
theorem hostReadsRegisters : Obligations.HostReadsRegisters := by
  intro s r rest hbusy hdue
  rw [step_readReg hbusy hdue]
  cases r <;> rfl

/-- Settles O48: the read is admitted, and the element exists exactly below `MSG_CAP`. -/
theorem hostReadsMessage : Obligations.HostReadsMessage := by
  intro s rest i hbusy hdue
  rw [step_readMsg hbusy hdue]
  refine ⟨fun hi => ?_, fun hi => ?_⟩
  · rw [decide_eq_true hi]
    rfl
  · rw [decide_eq_false (by omega)]
    rfl

end Sys2Proof.Machine
end

section
/-! SUPPORT. The host's byte view of RAW and COR (O47): bits and bytes, the bytes that exist, and the byte moves of an idle block. -/

namespace Sys2Proof.Machine

/-! ### Bits and bytes (R7, R42) -/

/-- `MemRead` takes the bits in order, the first as the most significant (R7). -/
theorem memRead_testBit (get : Nat → Bool) (p : Nat) {n k : Nat} (hk : k < n) :
    (memRead get p n).testBit (n - 1 - k) = get (p + k) := by
  have hbits : toBits n (memRead get p n) = readBits get p n := toBits_ofBits' (readBits_length get p n)
  have hbit := toBits_getElem? n (memRead get p n) k hk
  rw [hbits, readBits_getElem? get p n k hk] at hbit
  exact (Option.some.inj hbit).symm

/-- A read of eight bits is a byte whose bit `7 - k` is the `k`-th bit read (R42). -/
theorem exists_byte_of_memRead (get : Nat → Bool) (p : Nat) :
    ∃ v : BitVec 8, v.toNat = memRead get p 8 ∧ ∀ k, k < 8 → v.getLsbD (7 - k) = get (p + k) :=
  ⟨⟨memRead get p 8, memRead_lt get p 8⟩, rfl, fun _ hk => memRead_testBit get p hk⟩

/-- Writing byte `i` of RAW sets its eight bits, and every other bit reads as before (R42). -/
theorem rawBit_writeByte (s : State) (i j : Nat) (b : BitVec 8) :
    State.rawBit { s with raw := memWrite s.raw (8 * i) 8 b.toNat } j =
      if j / 8 = i then b.getLsbD (7 - j % 8) else s.rawBit j := by
  simp only [State.rawBit, memWrite_read]
  by_cases hj : j / 8 = i
  · rw [if_pos (by omega), if_pos hj, show 8 * i + 8 - 1 - j = 7 - j % 8 by omega]
    rfl
  · rw [if_neg (by omega), if_neg hj]

/-- A bit buffer of `cap` bits has `ceil(cap / 8)` bytes (R42). -/
theorem byteWithin_iff {cap i : Nat} : byteWithin cap i = true ↔ i < (cap + 7) / 8 := by
  simp only [byteWithin, decide_eq_true_eq]
  omega

theorem ifElement_byteWithin_of_lt {cap i : Nat} (s : State) (hi : i < (cap + 7) / 8) : ifElement (byteWithin cap i) s = .next s := by
  simp [ifElement, byteWithin_iff.2 hi]

theorem ifElement_byteWithin_of_le {cap i : Nat} (s : State) (hi : (cap + 7) / 8 ≤ i) :
    ifElement (byteWithin cap i) s = .fault .noSuchElement := by
  have habsent : ¬ byteWithin cap i = true := fun h => absurd (byteWithin_iff.1 h) (by omega)
  simp [ifElement, habsent]

/-! ### A due byte move of an idle block (R52) -/

section
variable {s : State} {rest : List HostMove} {i : Nat}

theorem step_writeRawByte {b : BitVec 8} (hbusy : s.status.busy = false) (hdue : s.due = some (.writeRawByte i b, rest)) :
    step s = ifElement (byteWithin s.params.rawCapBits i) { s with host := rest, raw := memWrite s.raw (8 * i) 8 b.toNat } := by
  simp [step_of_due hdue, hostAccess, hbusy]

theorem step_readRawByte (hbusy : s.status.busy = false) (hdue : s.due = some (.readRawByte i, rest)) :
    step s = ifElement (byteWithin s.params.rawCapBits i) { s with host := rest, hostData := memRead s.rawBit (8 * i) 8 } := by
  have hbits : State.rawBit { s with host := rest } = s.rawBit := rfl
  simp [step_of_due hdue, hostAccess, hbusy, hostTakes, hbits]

theorem step_readCorByte (hbusy : s.status.busy = false) (hdue : s.due = some (.readCorByte i, rest)) :
    step s = ifElement (byteWithin s.params.corCapBits i) { s with host := rest, hostData := memRead s.corBit (8 * i) 8 } := by
  have hbits : State.corBit { s with host := rest } = s.corBit := rfl
  simp [step_of_due hdue, hostAccess, hbusy, hostTakes, hbits]

end

/-- Settles O47: each byte move is admitted, the byte exists exactly below `ceil(cap / 8)`, and its bits are those of the buffer. -/
theorem byteViewOfBitBuffers : Obligations.ByteViewOfBitBuffers := by
  intro s rest i hbusy
  refine ⟨fun hi => ⟨fun b hdue => ?_, fun hdue => ?_⟩, fun hi hdue => ?_, fun hi hdue => ?_, fun hi hdue => ?_⟩
  · rw [step_writeRawByte hbusy hdue, ifElement_byteWithin_of_lt _ hi]
    exact ⟨_, rfl, rfl, fun j => rawBit_writeByte { s with host := rest } i j b⟩
  · obtain ⟨v, hv, hbits⟩ := exists_byte_of_memRead s.rawBit (8 * i)
    exact ⟨v, by rw [step_readRawByte hbusy hdue, ifElement_byteWithin_of_lt _ hi, hv], hbits⟩
  · obtain ⟨v, hv, hbits⟩ := exists_byte_of_memRead s.corBit (8 * i)
    exact ⟨v, by rw [step_readCorByte hbusy hdue, ifElement_byteWithin_of_lt _ hi, hv], hbits⟩
  · rcases hdue with ⟨b, hdue⟩ | hdue
    · rw [step_writeRawByte hbusy hdue, ifElement_byteWithin_of_le _ hi]
    · rw [step_readRawByte hbusy hdue, ifElement_byteWithin_of_le _ hi]
  · rw [step_readCorByte hbusy hdue, ifElement_byteWithin_of_le _ hi]

end Sys2Proof.Machine
end

section
/-! SUPPORT. The symbol stream is fixed while it is decoded (O59): only the stripper's loop writes DST, and the Mode Decoder writes no bit
buffer. -/

namespace Sys2Proof.Machine

/-! ### What the Mode Decoder leaves (R53) -/

/-- DST, its length, COR and RAW are as before, and so are the values of bits that nothing has written. -/
def State.bitBuffersKept (s t : State) : Prop :=
  t.dst = s.dst ∧ t.dstLen = s.dstLen ∧ t.cor = s.cor ∧ t.raw = s.raw ∧ t.epoch = s.epoch

theorem State.bitBuffersKept.dstBit_eq {s t : State} (h : s.bitBuffersKept t) : t.dstBit = s.dstBit := by
  obtain ⟨hdst, -, -, -, hepoch⟩ := h
  funext i
  simp [State.dstBit, hdst, hepoch]

theorem bitBuffersKept_of_symbolDone {s t : State} {v : Nat} {m : Mode} {shifted : Bool} {cs : List Char8}
    (h : s.symbolDone t v m shifted cs) : s.bitBuffersKept t := by
  obtain ⟨-, -, -, -, -, -, -, -, -, -, -, hraw, -, hcor, hdst, hlen, -, -, -, hepoch, -⟩ := h
  exact ⟨hdst, hlen, hcor, hraw, hepoch⟩

theorem bitBuffersKept_of_symbolFailed {s t : State} {c : Cause} (h : s.symbolFailed t c) : s.bitBuffersKept t := by
  obtain ⟨-, -, -, -, -, -, -, -, -, -, -, -, -, -, -, -, -, -, hraw, -, hcor, hdst, hlen, -, -, -, -, hepoch, -⟩ := h
  exact ⟨hdst, hlen, hcor, hraw, hepoch⟩

/-- A symbol of any mode writes no bit buffer; only a stripper word appends to DST. -/
theorem exec_symbol_bitBuffersKept {i : Instr} {m : Mode} {s t : State} (hi : i.ctx = .symbol m) (h : exec i s = .next t) :
    s.bitBuffersKept t := by
  obtain ⟨a, ha⟩ := symbolAction_isSome hi
  rcases exec_cases h with ⟨_, _, -, hdone⟩ | ⟨_, -, hdone⟩ | ⟨_, -, hdone⟩ | ⟨_, -, hfailed⟩ | ⟨hnone, -⟩
  · exact bitBuffersKept_of_symbolDone hdone
  · exact bitBuffersKept_of_symbolDone hdone
  · exact bitBuffersKept_of_symbolDone hdone
  · exact bitBuffersKept_of_symbolFailed hfailed
  · exact absurd (hnone.symm.trans ha) (by simp)

theorem modeStep_bitBuffersKept {s t : State} (h : modeStep s = .next t) : s.bitBuffersKept t := by
  by_cases hready : symWidth s.params.byteWidth s.md.mode ≤ s.bitsLeft
  · rw [modeStep_symbol hready] at h
    exact exec_symbol_bitBuffersKept (s := fetchSymbol s) (decodeSymbol_ctx _ _) h
  · rw [modeStep_end (by omega)] at h
    cases h
    exact ⟨rfl, rfl, rfl, rfl, rfl⟩

/-- A step of stage 3, its entry or a turn of its loop, writes no bit buffer. -/
theorem blockStep_bitBuffersKept {s t : State} (hq : s.seq = .modeInit ∨ s.seq = .mode) (h : blockStep s = .next t) :
    s.bitBuffersKept t := by
  rcases hq with hq | hq
  · rw [blockStep_modeInit hq] at h
    cases h
    exact ⟨rfl, rfl, rfl, rfl, rfl⟩
  · rw [blockStep_mode hq] at h
    exact modeStep_bitBuffersKept h

theorem bitBuffersKept_of_tick {s t : State} (h : s.tick.bitBuffersKept t) : s.bitBuffersKept t := by
  simpa [State.bitBuffersKept] using h

/-! ### Who writes DST (R53) -/

theorem runChecks_dst (s : State) : (runChecks s).dst = s.dst := by
  unfold runChecks
  split <;> rfl

theorem correctStage_dst (w : EccWidth) (s : State) : (correctStage w s).dst = s.dst := by
  unfold correctStage
  cases rsAnswer w s <;> rfl

theorem stripCheck_dst (w : EccWidth) (s : State) : (stripCheck w s).dst = s.dst := by
  unfold stripCheck
  split <;> rfl

theorem withWidth_dst {f : EccWidth → State → State} {s : State} (hf : ∀ w, (f w s).dst = s.dst) : (withWidth f s).dst = s.dst :=
  withWidth_of_forall (P := fun t => t.dst = s.dst) rfl hf

theorem blockStep_dst_of_not_strip {s t : State} (hq : s.seq ≠ .strip) (h : blockStep s = .next t) : t.dst = s.dst := by
  cases hseq : s.seq with
  | idle => rw [blockStep_idle hseq] at h; cases h; rfl
  | checks => rw [blockStep_checks hseq] at h; cases h; exact runChecks_dst s
  | split => rw [blockStep_split hseq] at h; cases h; exact withWidth_dst fun w => splitStage_dst s w
  | correct => rw [blockStep_correct hseq] at h; cases h; exact withWidth_dst fun w => correctStage_dst w s
  | repack => rw [blockStep_repack hseq] at h; cases h; exact withWidth_dst fun w => repackStage_dst s w
  | stripCheck => rw [blockStep_stripCheck hseq] at h; cases h; exact withWidth_dst fun w => stripCheck_dst w s
  | strip => exact absurd hseq hq
  | modeInit => exact (blockStep_bitBuffersKept (.inl hseq) h).1
  | mode => exact (blockStep_bitBuffersKept (.inr hseq) h).1

theorem hostAccess_dst {op : HostOp} {s t : State} (hop : op ≠ .hardReset) (h : hostAccess op s = .next t) : t.dst = s.dst := by
  obtain ⟨-, -, -, -, hdst, -⟩ := hostAccess_outputsKept h hop
  exact hdst

/-- Settles O59: a host move but hardware reset and a block step outside the stripper's loop leave DST, and stage 3 leaves every bit
buffer. -/
theorem symbolStreamIsFixed : Obligations.SymbolStreamIsFixed := by
  refine ⟨fun s t h hchange => ?_, fun s t hwaits hq h => ?_⟩
  · rcases step_cases h with ⟨op, rest, hdue, hx⟩ | ⟨hwaits, hx⟩
    · have hop : op = .hardReset := by
        by_contra hne
        exact hchange (hostAccess_dst (s := { s with host := rest }) hne hx)
      exact .inr ⟨rest, hop ▸ hdue⟩
    · have hstrip : s.seq = .strip := by
        by_contra hne
        exact hchange (by simpa using blockStep_dst_of_not_strip (s := s.tick) (by simpa using hne) hx)
      exact .inl ⟨hwaits, hstrip⟩
  · rw [step_of_waits hwaits] at h
    have hkept := bitBuffersKept_of_tick (blockStep_bitBuffersKept (s := s.tick) (by simpa using hq) h)
    have hbits := hkept.dstBit_eq
    obtain ⟨hdst, hlen, hcor, hraw, -⟩ := hkept
    exact ⟨hdst, hlen, hcor, hraw, fun p n => by rw [hbits]⟩

end Sys2Proof.Machine
end

section
/-! SUPPORT. Encoding (spec/30_encoding.md): the code word of a value in a context, which the decoder reads and the encoder inverts
(O1 to O5). -/

namespace Sys2Proof

open Machine

/-! ### The ranges of R68 are what the tables read as their entries with an operand -/

theorem decodeUpper_of_inRange : ∀ v : BitVec 5, inRange 2 27 v.toNat = true → decodeUpper v = .uCH v := by decide

theorem decodeLower_of_inRange : ∀ v : BitVec 5, inRange 2 27 v.toNat = true → decodeLower v = .lCH v := by decide

theorem decodeMixed_of_inRange : ∀ v : BitVec 5,
    (inRange 2 14 v.toNat = true → decodeMixed v = .mC1 v) ∧ (inRange 15 19 v.toNat = true → decodeMixed v = .mC2 v) ∧
      (inRange 22 24 v.toNat = true → decodeMixed v = .mG3 v) := by
  decide

theorem decodePunct_of_inRange : ∀ v : BitVec 5,
    (inRange 6 20 v.toNat = true → decodePunct v = .pG1 v) ∧ (inRange 21 26 v.toNat = true → decodePunct v = .pG2 v) := by
  decide

theorem decodeDigit_of_inRange : ∀ v : BitVec 4, inRange 2 11 v.toNat = true → decodeDigit v = .dCH v := by decide

/-! ### Each table's entry has the value it was read for -/

/-- Only BYTE's entry depends on `BYTE_WIDTH` (R63). -/
theorem wf_eq_of_ctx_ne_byte {i : Instr} (h : i.ctx ≠ .symbol .byte) (bw : Nat) : i.wf bw = i.wf 0 := by
  cases i with
  | bANY v => exact absurd rfl h
  | _ => rfl

/-- The modes that have a dispatch table (R68). -/
def tableModes : List Mode := [.upper, .lower, .mixed, .punct, .digit]

theorem eq_byte_of_notMem_tableModes {m : Mode} (h : m ∉ tableModes) : m = .byte := by
  cases m with
  | byte => rfl
  | _ => exact absurd (by decide) h

/-- Only BYTE's width depends on `BYTE_WIDTH` (R63). -/
theorem symWidth_of_mem_tableModes {m : Mode} (h : m ∈ tableModes) (bw : Nat) : symWidth bw m = symWidth 0 m := by
  cases m with
  | byte => exact absurd h (by decide)
  | _ => rfl

/-- The tables of R68, value by value. -/
theorem wf_encodeValue_table : ∀ m ∈ tableModes, ∀ v < 2 ^ symWidth 0 m,
    (decodeSymbol m v).wf 0 = true ∧ encodeValue (decodeSymbol m v) = v := by
  decide

/-- A value of a mode's width is read as a well-formed entry of that value (R67). -/
theorem wf_encodeValue_decodeSymbol {bw : Nat} {m : Mode} {v : Nat} (hv : v < 2 ^ symWidth bw m) :
    (decodeSymbol m v).wf bw = true ∧ encodeValue (decodeSymbol m v) = v := by
  by_cases hm : m ∈ tableModes
  · have hctx : (decodeSymbol m v).ctx ≠ .symbol .byte := by
      rw [decodeSymbol_ctx]
      rintro ⟨⟩
      exact absurd hm (by decide)
    rw [symWidth_of_mem_tableModes hm] at hv
    rw [wf_eq_of_ctx_ne_byte hctx]
    exact wf_encodeValue_table m hm v hv
  · obtain rfl := eq_byte_of_notMem_tableModes hm
    exact ⟨decide_eq_true hv, rfl⟩

theorem decodeStuffed_ctx (w : EccWidth) (v : Nat) : (decodeStuffed w v).ctx = .word w.bits := by
  unfold decodeStuffed
  split_ifs <;> rfl

/-- A value of a word width is read as a well-formed stripper word of that value (R62). -/
theorem wf_encodeValue_decodeStuffed {w : EccWidth} {v : Nat} (bw : Nat) (hv : v < 2 ^ w.bits) :
    (decodeStuffed w v).wf bw = true ∧ encodeValue (decodeStuffed w v) = v := by
  unfold decodeStuffed
  split_ifs with hzero hone
  · exact ⟨rfl, hzero.symm⟩
  · exact ⟨rfl, hone.symm⟩
  · have hval : (BitVec.ofNat 12 v).toNat = v := by
      rw [BitVec.toNat_ofNat, Nat.mod_eq_of_lt (hv.trans_le (two_pow_bits_le w))]
    exact ⟨by simp [Instr.wf, isPlainWord, hval, hv, hzero, hone], hval⟩

/-! ### The code word of a value in a context -/

/-- The code word of value `v` in context `c`; none where the word width is illegal (R60, R64, R70). -/
def Ctx.entry (c : Ctx) (v : Nat) : Option Instr :=
  match c with
  | .symbol m => some (decodeSymbol m v)
  | .word n => (EccWidth.ofBits? n).map fun w => decodeStuffed w v

/-- The decoder takes a whole code word and reads it as its value's entry. -/
theorem decode_eq_ok_iff {bw : Nat} {c : Ctx} {bits rest : List Bool} {i : Instr} :
    decode bw c bits = .ok (i, rest) ↔
      c.width bw ≤ bits.length ∧ c.entry (ofBits (bits.take (c.width bw))) = some i ∧ bits.drop (c.width bw) = rest := by
  cases c with
  | symbol m =>
    by_cases hlen : symWidth bw m ≤ bits.length
    · simp [decode, Ctx.width, Ctx.entry, hlen, hlen.not_gt]
    · simp [decode, Ctx.width, hlen, Nat.lt_of_not_le hlen]
  | word n =>
    cases hw : EccWidth.ofBits? n with
    | none => simp [decode, Ctx.entry, hw]
    | some w =>
      by_cases hlen : n ≤ bits.length
      · simp [decode, Ctx.width, Ctx.entry, hw, hlen, hlen.not_gt]
      · simp [decode, Ctx.width, hw, hlen, Nat.lt_of_not_le hlen]

/-- Every value of a context's width has a code word, but at an illegal word width. -/
theorem wf_ctx_encodeValue_of_entry {bw : Nat} {c : Ctx} {v : Nat} {i : Instr} (hv : v < 2 ^ c.width bw) (h : c.entry v = some i) :
    i.wf bw = true ∧ i.ctx = c ∧ encodeValue i = v := by
  cases c with
  | symbol m =>
    cases h
    obtain ⟨hwf, hval⟩ := wf_encodeValue_decodeSymbol hv
    exact ⟨hwf, decodeSymbol_ctx m v, hval⟩
  | word n =>
    obtain ⟨w, hw, rfl⟩ := Option.map_eq_some_iff.mp h
    obtain rfl := eq_bits_of_ofBits? hw
    obtain ⟨hwf, hval⟩ := wf_encodeValue_decodeStuffed bw hv
    exact ⟨hwf, decodeStuffed_ctx w v, hval⟩

theorem entry_pass {bw : Nat} {w : EccWidth} {v : EccWord} (h : (Instr.pass w v).wf bw = true) :
    (Ctx.word w.bits).entry v.toNat = some (.pass w v) := by
  simp only [Instr.wf, isPlainWord, Bool.and_eq_true, decide_eq_true_eq] at h
  obtain ⟨⟨-, hzero⟩, hone⟩ := h
  simp [Ctx.entry, decodeStuffed, hzero, hone]

/-- A well-formed code word is the entry of its own value. -/
theorem entry_encodeValue {bw : Nat} {i : Instr} (h : i.wf bw = true) : i.ctx.entry (encodeValue i) = some i := by
  cases i with
  | uCH v => simpa [Instr.ctx, encodeValue, Ctx.entry, decodeSymbol] using decodeUpper_of_inRange v h
  | lCH v => simpa [Instr.ctx, encodeValue, Ctx.entry, decodeSymbol] using decodeLower_of_inRange v h
  | mC1 v => simpa [Instr.ctx, encodeValue, Ctx.entry, decodeSymbol] using (decodeMixed_of_inRange v).1 h
  | mC2 v => simpa [Instr.ctx, encodeValue, Ctx.entry, decodeSymbol] using (decodeMixed_of_inRange v).2.1 h
  | mG3 v => simpa [Instr.ctx, encodeValue, Ctx.entry, decodeSymbol] using (decodeMixed_of_inRange v).2.2 h
  | pG1 v => simpa [Instr.ctx, encodeValue, Ctx.entry, decodeSymbol] using (decodePunct_of_inRange v).1 h
  | pG2 v => simpa [Instr.ctx, encodeValue, Ctx.entry, decodeSymbol] using (decodePunct_of_inRange v).2 h
  | dCH v => simpa [Instr.ctx, encodeValue, Ctx.entry, decodeSymbol] using decodeDigit_of_inRange v h
  | pass w v => exact entry_pass h
  | stuff0 w => cases w <;> rfl
  | stuff1 w => cases w <;> rfl
  | _ => rfl

open Laws.EncodedValueFits in
/-- The value of a well-formed code word fits the width it is read with, from the family's lemma of each constructor. -/
theorem encodeValue_lt {bw : Nat} {i : Instr} (h : i.wf bw = true) : encodeValue i < 2 ^ i.ctx.width bw := by
  have hfits : Laws.EncodedValueFits.Statement i := by
    cases i
    exacts [uPS, uSP, uCH _, uLL, uML, uDL, uBS, lPS, lSP, lCH _, lUS, lML, lDL, lBS, mPS, mSP, mC1 _, mC2 _, mAT, mBSL, mG3 _,
      mBAR, mTIL, mDEL, mLL, mUL, mPL, mBS, pFLG, pCR, pCRLF, pDOTSP, pCOMSP, pCOLSP, pG1 _, pG2 _, pLBR, pRBR, pLCB, pRCB, pUL,
      dPS, dSP, dCH _, dCOM, dDOT, dUL, dUS, bANY _, stuff0 _, stuff1 _, pass _ _]
  exact hfits bw h

/-- The tables and the encoder are inverse: the entries of a context are its well-formed code words, each at its own value (R67). -/
theorem entry_eq_some_iff {bw : Nat} {c : Ctx} {v : Nat} {i : Instr} :
    v < 2 ^ c.width bw ∧ c.entry v = some i ↔ i.wf bw = true ∧ i.ctx = c ∧ encodeValue i = v := by
  constructor
  · rintro ⟨hv, h⟩
    exact wf_ctx_encodeValue_of_entry hv h
  · rintro ⟨hwf, rfl, rfl⟩
    exact ⟨encodeValue_lt hwf, entry_encodeValue hwf⟩

/-! ### The statements -/

/-- Settles O2: the decoder reads the encoded value back, and a well-formed code word is the entry of that value. -/
theorem decodeInvertsEncode : Obligations.DecodeInvertsEncode := by
  intro bw i rest hwf
  have hlen : (encode bw i).length = i.ctx.width bw := toBits_length _ _
  have hval : ofBits (encode bw i) = encodeValue i := ofBits_toBits_of_lt (encodeValue_lt hwf)
  rw [decode_eq_ok_iff, ← hlen, List.take_left, List.drop_left, hval]
  exact ⟨by simp, entry_encodeValue hwf, rfl⟩

/-- Settles O3: the bits read are those of the value of the entry that they decode to. -/
theorem encodeInvertsDecode : Obligations.EncodeInvertsDecode := by
  intro bw c bits rest i h
  obtain ⟨hlen, hentry, rfl⟩ := decode_eq_ok_iff.mp h
  have htake : (bits.take (c.width bw)).length = c.width bw := List.length_take_of_le hlen
  have hv : ofBits (bits.take (c.width bw)) < 2 ^ c.width bw := by simpa only [htake] using ofBits_lt (bits.take (c.width bw))
  obtain ⟨hwf, rfl, hval⟩ := entry_eq_some_iff.mp ⟨hv, hentry⟩
  refine ⟨hwf, rfl, ?_⟩
  rw [encode, hval, toBits_ofBits' htake, List.take_append_drop]

/-- A value that has an entry in a context has exactly one. -/
theorem existsUnique_of_entry {bw : Nat} {c : Ctx} {v : Nat} {i : Instr} (hv : v < 2 ^ c.width bw) (hi : c.entry v = some i) :
    ∃ i : Instr, (i.wf bw = true ∧ i.ctx = c ∧ encodeValue i = v) ∧
      ∀ j : Instr, j.wf bw = true → j.ctx = c → encodeValue j = v → j = i := by
  refine ⟨i, entry_eq_some_iff.mp ⟨hv, hi⟩, fun j hwf hctx hval => ?_⟩
  obtain ⟨-, hj⟩ := entry_eq_some_iff.mpr ⟨hwf, hctx, hval⟩
  exact Option.some.inj (hj.symm.trans hi)

/-- Settles O4: the entry of the value in that context, which `entry_eq_some_iff` makes the only one. -/
theorem everyValueHasOneEntry : Obligations.EveryValueHasOneEntry := by
  constructor
  · intro bw m v hv
    exact existsUnique_of_entry (c := .symbol m) hv rfl
  · intro bw w v hv
    have hentry : (Ctx.word w.bits).entry v = some (decodeStuffed w v) := by simp [Ctx.entry]
    exact existsUnique_of_entry (c := .word w.bits) hv hentry

/-- Some code word is decoded exactly when the context has an entry and its bits are there. -/
theorem exists_decode_iff {bw : Nat} {c : Ctx} {bits : List Bool} :
    (∃ i rest, decode bw c bits = .ok (i, rest)) ↔
      (∃ i, c.entry (ofBits (bits.take (c.width bw))) = some i) ∧ c.width bw ≤ bits.length := by
  simp only [decode_eq_ok_iff]
  constructor
  · rintro ⟨i, rest, hlen, hi, -⟩
    exact ⟨⟨i, hi⟩, hlen⟩
  · rintro ⟨⟨i, hi⟩, hlen⟩
    exact ⟨i, _, hlen, hi, rfl⟩

/-- The legal word widths of R61. -/
theorem ofBits?_isSome_iff {n : Nat} : (EccWidth.ofBits? n).isSome = true ↔ n = 6 ∨ n = 8 ∨ n = 10 ∨ n = 12 := by
  unfold EccWidth.ofBits?
  split_ifs <;> simp_all

theorem decode_word_eq_badWordBits_iff {bw n : Nat} {bits : List Bool} :
    decode bw (.word n) bits = .error .badWordBits ↔ EccWidth.ofBits? n = none := by
  cases hw : EccWidth.ofBits? n with
  | none => simp [decode, hw]
  | some w =>
    by_cases hlen : bits.length < n
    · simp [decode, hw, hlen]
    · simp [decode, hw, hlen]

/-- Settles O5: a mode has an entry for every value, and a word width exactly when it is legal. -/
theorem decodeRefusesExactly : Obligations.DecodeRefusesExactly := by
  refine fun bw => ⟨fun m bits => ?_, fun n bits => ?_, fun n bits => ?_⟩
  · simp [exists_decode_iff, Ctx.entry, Ctx.width]
  · rw [exists_decode_iff, ← ofBits?_isSome_iff, Option.isSome_iff_exists]
    simp [Ctx.entry, Ctx.width]
  · rw [decode_word_eq_badWordBits_iff, ← ofBits?_isSome_iff, Option.not_isSome_iff_eq_none]

/-- Settles O1: the decoder evaluates on each of the written words. -/
theorem sampleWordsDecode : Obligations.SampleWordsDecode :=
  ⟨rfl, rfl, rfl, rfl, rfl, rfl, rfl, rfl, rfl, rfl, rfl, rfl, rfl, rfl, rfl, rfl, rfl⟩

end Sys2Proof
end

section
/-! SUPPORT. The dispatch tables (spec/30_encoding.md R68, R72, R73): each entry's meaning, the mode changes and the code points they hold
(O6, O27, O28). -/

namespace Sys2Proof.Machine

/-! ### The entries' meanings are the tables' (R68, R114) -/

theorem symbolAction_table : ∀ m ∈ tableModes, ∀ v < 2 ^ symWidth 0 m, symbolAction (decodeSymbol m v) = some (dispatch m v) := by
  decide

/-- The dispatch result of the entry read at a value is the table's (R114). -/
theorem symbolAction_decodeSymbol {bw : Nat} {m : Mode} {v : Nat} (hv : v < 2 ^ symWidth bw m) :
    symbolAction (decodeSymbol m v) = some (dispatch m v) := by
  by_cases hm : m ∈ tableModes
  · rw [symWidth_of_mem_tableModes hm] at hv
    exact symbolAction_table m hm v hv
  · obtain rfl := eq_byte_of_notMem_tableModes hm
    rfl

/-- Settles O6: a symbol runs its dispatch result at its value, and both are those of the table position it was read at. -/
theorem meaningsFollowTheDispatchTable : Obligations.MeaningsFollowTheDispatchTable := by
  intro m v s hv
  rw [exec_symbol s (symbolAction_decodeSymbol hv), (wf_encodeValue_decodeSymbol hv).2]

/-- A well-formed symbol's dispatch result is its mode's table entry at its value. -/
theorem symbolAction_eq_dispatch {bw : Nat} {i : Instr} {m : Mode} (hwf : i.wf bw = true) (hi : i.ctx = .symbol m) :
    symbolAction i = some (dispatch m (encodeValue i)) := by
  obtain ⟨hv, hentry⟩ := entry_eq_some_iff.mpr ⟨hwf, hi, rfl⟩
  rw [← symbolAction_decodeSymbol hv, Option.some.inj hentry]

/-! ### Mode changes (R73) -/

/-- The dispatch result that changes the mode to `m`, by a shift or by a latch. -/
def Action.change (shifts : Bool) (m : Mode) : Action := if shifts then .shift m else .latch m

/-- The entries that change the mode, in the order of R73's list. -/
def changeEntries : List Instr :=
  [.uLL, .uML, .uDL, .lML, .lDL, .mLL, .mUL, .mPL, .pUL, .dUL, .uPS, .lPS, .mPS, .dPS, .lUS, .dUS, .uBS, .lBS, .mBS]

/-- The mode changes of R73: source, whether by a shift, target. -/
def modeChanges : List (Mode × Bool × Mode) :=
  [(.upper, false, .lower), (.upper, false, .mixed), (.upper, false, .digit), (.lower, false, .mixed), (.lower, false, .digit),
   (.mixed, false, .lower), (.mixed, false, .upper), (.mixed, false, .punct), (.punct, false, .upper), (.digit, false, .upper),
   (.upper, true, .punct), (.lower, true, .punct), (.mixed, true, .punct), (.digit, true, .punct), (.lower, true, .upper),
   (.digit, true, .upper), (.upper, true, .byte), (.lower, true, .byte), (.mixed, true, .byte)]

theorem isShift_of_change {i : Instr} {b : Bool} {m : Mode} (h : symbolAction i = some (.change b m)) : isShift i = b := by
  cases b <;> cases i <;> cases h <;> rfl

/-- Every entry that shifts or latches does so as R73 lists; such an entry has no operand, so each constructor is one case. -/
theorem mem_modeChanges {i : Instr} {src m : Mode} {b : Bool} (hi : i.ctx = .symbol src) (h : symbolAction i = some (.change b m)) :
    (src, b, m) ∈ modeChanges := by
  cases b <;> cases i <;> cases h <;> cases hi <;> decide

/-- Every listed change has its entry. -/
theorem exists_entry_of_mem_modeChanges : ∀ x ∈ modeChanges,
    ∃ i ∈ changeEntries, i.ctx = .symbol x.1 ∧ symbolAction i = some (.change x.2.1 x.2.2) := by
  decide

theorem wf_of_mem_changeEntries {i : Instr} (h : i ∈ changeEntries) (bw : Nat) : i.wf bw = true := by
  have hall : ∀ i ∈ changeEntries, i.wf 0 = true ∧ i.ctx ≠ .symbol .byte := by decide
  obtain ⟨hwf, hctx⟩ := hall i h
  rw [wf_eq_of_ctx_ne_byte hctx, hwf]

/-- A shift or latch ends in its target unless a revert is pending, and leaves OUT alone. -/
theorem exec_change {i : Instr} {b : Bool} {m : Mode} (s : State) (h : symbolAction i = some (.change b m)) :
    ∃ t, exec i s = .next t ∧ t.md.mode = s.md.revert.getD m ∧ t.md.outLen = s.md.outLen ∧ t.out = s.out := by
  rw [exec_symbol s h]
  cases b <;> exact ⟨_, rfl, by simp⟩

/-- With no revert pending, only a shift or a latch changes the mode. -/
theorem exists_change_of_mode_ne {i : Instr} {s t : State} {src : Mode} (hi : i.ctx = .symbol src) (hrev : s.md.revert = none)
    (h : exec i s = .next t) (hne : t.md.mode ≠ s.md.mode) : ∃ b m, symbolAction i = some (.change b m) := by
  rcases exec_cases h with ⟨c1, c2, -, hdone⟩ | ⟨m, ha, -⟩ | ⟨m, ha, -⟩ | ⟨c, -, hfail⟩ | ⟨hnone, -⟩
  · obtain ⟨-, -, hmode, -⟩ := hdone
    exact absurd (by simpa [hrev] using hmode) hne
  · exact ⟨false, m, ha⟩
  · exact ⟨true, m, ha⟩
  · obtain ⟨-, -, -, -, -, -, -, -, -, -, -, hmode, -⟩ := hfail
    exact absurd hmode hne
  · obtain ⟨a, ha⟩ := symbolAction_isSome hi
    simp [hnone] at ha

/-- Settles O27: with no revert pending a change of mode is an entry's shift or latch, and these are the listed ones. -/
theorem modeChangesAreTheListedOnes : Obligations.ModeChangesAreTheListedOnes := by
  refine ⟨fun i s t hi hrev h hne => ?_, fun s b m hrev hmem => ?_⟩
  · obtain ⟨b, m, ha⟩ := exists_change_of_mode_ne hi hrev h hne
    obtain ⟨t', ht', hmode, hlen, hout⟩ := exec_change s ha
    obtain rfl : t' = t := by rw [ht'] at h; cases h; rfl
    rw [hrev, Option.getD_none] at hmode
    rw [isShift_of_change ha, hmode]
    exact ⟨mem_modeChanges hi ha, hlen, hout⟩
  · obtain ⟨i, hentry, hi, ha⟩ := exists_entry_of_mem_modeChanges _ hmem
    obtain ⟨t, ht, hmode, -⟩ := exec_change s ha
    exact ⟨i, t, wf_of_mem_changeEntries hentry _, hi, isShift_of_change ha, ht, by simpa [hrev] using hmode⟩

/-! ### Code points (R72) -/

/-- The code points of R72. -/
abbrev Emittable (n : Nat) : Prop := (1 ≤ n ∧ n ≤ 13) ∨ (23 ≤ n ∧ n ≤ 27) ∨ (32 ≤ n ∧ n ≤ 127)

/-- The characters a dispatch result appends (R115). -/
def Action.chars : Action → List Char8
  | .appendChars c1 c2 => c1 :: c2.toList
  | .latch _ | .shift _ | .failSym _ => []

theorem Action.chars_length_le (a : Action) : a.chars.length ≤ 2 := by
  cases a with
  | appendChars c1 c2 => cases c2 <;> simp [Action.chars]
  | _ => simp [Action.chars]

/-- The dispatch table of a mode; BYTE has none (R200). -/
def tableOf : Mode → List Action
  | .upper => tableUpper
  | .lower => tableLower
  | .mixed => tableMixed
  | .punct => tablePunct
  | .digit => tableDigit
  | .byte => []

theorem dispatch_of_mem_tableModes {m : Mode} (h : m ∈ tableModes) (v : Nat) :
    dispatch m v = (tableOf m).getD v (.failSym .noCause) := by
  cases m with
  | byte => exact absurd h (by decide)
  | _ => rfl

/-- A table has one entry for each value of its mode's width. -/
theorem tableOf_length : ∀ m ∈ tableModes, (tableOf m).length = 2 ^ symWidth 0 m := by decide

/-- What a value dispatches to fails or is an entry of its mode's table. -/
theorem dispatch_failSym_or_mem (m : Mode) (v : Nat) :
    (∃ c, dispatch m v = .failSym c) ∨ (m ∈ tableModes ∧ dispatch m v ∈ tableOf m) := by
  by_cases hm : m ∈ tableModes
  · rw [dispatch_of_mem_tableModes hm]
    by_cases hv : v < (tableOf m).length
    · rw [List.getD_eq_getElem _ _ hv]
      exact .inr ⟨hm, List.getElem_mem hv⟩
    · exact .inl ⟨_, List.getD_eq_default _ _ (Nat.le_of_not_lt hv)⟩
  · obtain rfl := eq_byte_of_notMem_tableModes hm
    exact .inl ⟨_, rfl⟩

theorem exists_value_of_mem_tableOf {m : Mode} {a : Action} (hm : m ∈ tableModes) (ha : a ∈ tableOf m) :
    ∃ v, dispatch m v = a ∧ ∀ bw, v < 2 ^ symWidth bw m := by
  obtain ⟨v, hv, rfl⟩ := List.mem_iff_getElem.mp ha
  refine ⟨v, ?_, fun bw => by rwa [symWidth_of_mem_tableModes hm, ← tableOf_length m hm]⟩
  rw [dispatch_of_mem_tableModes hm, List.getD_eq_getElem _ _ hv]

/-- Every character of every table is one of R72's. -/
theorem emittable_of_mem_tables :
    ∀ m ∈ tableModes, ∀ n ∈ ((tableOf m).flatMap Action.chars).map BitVec.toNat, Emittable n := by
  decide

/-- Every code point of R72 has an entry that appends it alone. -/
theorem exists_entry_of_emittable : ∀ n < 128, Emittable n → ∃ m ∈ tableModes, .appendChars (BitVec.ofNat 8 n) none ∈ tableOf m := by
  decide

theorem emittable_of_mem_dispatch {m : Mode} {v : Nat} {c : Char8} (hc : c ∈ (dispatch m v).chars) : Emittable c.toNat := by
  rcases dispatch_failSym_or_mem m v with ⟨cause, hfail⟩ | ⟨hm, hmem⟩
  · simp [hfail, Action.chars] at hc
  · exact emittable_of_mem_tables m hm _ (List.mem_map_of_mem (List.mem_flatMap_of_mem hmem hc))

/-- A symbol that does not fail appends the characters of its dispatch result. -/
theorem exec_outGrewBy {i : Instr} {a : Action} (s : State) (ha : symbolAction i = some a) (hf : isFailing i = false) :
    ∃ t, exec i s = .next t ∧ s.outGrewBy t a.chars := by
  rw [exec_symbol s ha]
  cases a with
  | appendChars c1 c2 =>
    obtain ⟨t, ht, -, -, -, -, -, hout, -⟩ := runSymbol_append s (encodeValue i) c1 c2
    exact ⟨t, ht, hout⟩
  | latch m =>
    obtain ⟨t, ht, -, -, -, -, -, hout, -⟩ := runSymbol_latch s (encodeValue i) m
    exact ⟨t, ht, hout⟩
  | shift m =>
    obtain ⟨t, ht, -, -, -, -, -, hout, -⟩ := runSymbol_shift s (encodeValue i) m
    exact ⟨t, ht, hout⟩
  | failSym c => cases i <;> cases ha <;> cases hf

/-- Settles O28: what a symbol appends stands in its mode's table, and each code point has a table entry that appends it alone. -/
theorem emittedCodePoints : Obligations.EmittedCodePoints := by
  constructor
  · rintro i s hwf ⟨m, hi⟩ hf
    have ha := symbolAction_eq_dispatch hwf hi
    obtain ⟨t, ht, hout⟩ := exec_outGrewBy s ha hf
    exact ⟨t, _, ht, hout, Action.chars_length_le _, fun c hc => emittable_of_mem_dispatch hc⟩
  · intro n hn
    obtain ⟨m, hm, hmem⟩ := exists_entry_of_emittable n (by omega) hn
    obtain ⟨v, hv, hlt⟩ := exists_value_of_mem_tableOf hm hmem
    refine ⟨decodeSymbol m v, ⟨m, decodeSymbol_ctx m v⟩, fun s => ⟨(wf_encodeValue_decodeSymbol (hlt _)).1, ?_⟩⟩
    rw [exec_symbol s (symbolAction_decodeSymbol (hlt 0)), hv]
    obtain ⟨t, ht, -, -, -, -, -, hout, -⟩ := runSymbol_append s (encodeValue (decodeSymbol m v)) (BitVec.ofNat 8 n) none
    exact ⟨t, ht, hout⟩

end Sys2Proof.Machine
end

section
/-! SUPPORT. Stage 1 (spec/40_word_splitter_ecc.md): SPLIT cuts RAW into words, CORRECT takes the corrector's answer, REPACK writes COR
(O33, O34, O35). -/

namespace Sys2Proof.Machine

variable {s : State} {w : EccWidth}

/-! ### Stage 1 as steps (R211) -/

theorem ofBits?_tick (hw : s.desc.wordBits.toNat = w.bits) : EccWidth.ofBits? s.tick.desc.wordBits.toNat = some w := by
  rw [tick_desc, hw, ofBits?_bits]

theorem step_split (hwait : s.hostWaits) (hq : s.seq = .split) (hw : s.desc.wordBits.toNat = w.bits) :
    step s = .next (splitStage w s.tick) := by
  rw [step_of_waits hwait, blockStep_split (by rw [tick_seq, hq]), withWidth_of_some (ofBits?_tick hw)]

/-- The host's clock changes the host's queue alone (log 5). -/
theorem exists_tick_eq (s : State) : ∃ q, s.tick = { s with host := q } := by
  unfold State.tick
  split
  · exact ⟨_, rfl⟩
  · exact ⟨s.host, rfl⟩

/-- The host's queue is no part of the request (R84). -/
theorem correctStage_tick (w : EccWidth) (s : State) : correctStage w s.tick = takeAnswer (rsAnswer w s) s.tick := by
  obtain ⟨q, hq⟩ := exists_tick_eq s
  rw [hq]
  rfl

theorem step_correct (hwait : s.hostWaits) (hq : s.seq = .correct) (hw : s.desc.wordBits.toNat = w.bits) :
    step s = .next (takeAnswer (rsAnswer w s) s.tick) := by
  rw [step_of_waits hwait, blockStep_correct (by rw [tick_seq, hq]), withWidth_of_some (ofBits?_tick hw), correctStage_tick]

theorem step_repack (hwait : s.hostWaits) (hq : s.seq = .repack) (hw : s.desc.wordBits.toNat = w.bits) :
    step s = .next (repackStage w s.tick) := by
  rw [step_of_waits hwait, blockStep_repack (by rw [tick_seq, hq]), withWidth_of_some (ofBits?_tick hw)]

/-! ### SPLIT (R82, R45) -/

theorem rawWord_lt (w : EccWidth) (s : State) (i : Nat) : s.rawWord w i < 2 ^ w.bits := memRead_lt _ _ _

/-- Every width fits DW's 12 bits, so SPLIT cuts nothing off a word. -/
theorem splitStage_dwWord {i : Nat} (hi : i < s.desc.capWords) : ((splitStage w s).dwWord i).toNat = s.rawWord w i := by
  have hfit : s.rawWord w i < 4096 := (rawWord_lt w s i).trans_le (two_pow_bits_le w)
  simp [State.dwWord, writeFrom_read, hi, Nat.mod_eq_of_lt hfit]

theorem splitStage_dw_read_above {i : Nat} (hi : s.desc.capWords ≤ i) : (splitStage w s).dw.read i = s.dw.read i := by
  rw [splitStage_dw, writeFrom_read, if_neg (by omega)]

/-- A word of the request is the word of DW, as SPLIT left it (R84). -/
theorem splitStage_setWidth_dwWord {i : Nat} (hi : i < s.desc.capWords) :
    (((splitStage w s).dwWord i).setWidth w.bits).toNat = s.rawWord w i := by
  rw [BitVec.toNat_setWidth, splitStage_dwWord hi, Nat.mod_eq_of_lt (rawWord_lt w s i)]

/-- Settles O33: each word of RAW fits DW and the request, and data and parity are below `CAP_WORDS`. -/
theorem splitCutsRawIntoWords : Obligations.SplitCutsRawIntoWords := by
  intro s w hwait hq hw
  have hraw : s.tick.rawWord w = s.rawWord w := congrFun (tick_rawWord s) w
  refine ⟨splitStage w s.tick, step_split hwait hq hw, rfl, fun i hi => ?_, fun i hi => ?_, fun hmn => ⟨fun i => ?_, fun j => ?_⟩⟩
  · rw [splitStage_dwWord (by rwa [tick_desc]), hraw]
    exact ⟨rfl, rawWord_lt w s i⟩
  · rw [splitStage_dw_read_above (by rwa [tick_desc]), tick_dw]
  · have hi : i.val < s.tick.desc.msgWords := i.isLt
    rw [tick_desc] at hi
    rw [rsData, splitStage_setWidth_dwWord (by rw [tick_desc]; omega), hraw]
    rfl
  · have hj : j.val < s.tick.desc.capWords - s.tick.desc.msgWords := j.isLt
    have hm : (splitStage w s.tick).dataCount = s.desc.msgWords := by rw [State.dataCount, splitStage_desc, tick_desc]
    rw [tick_desc] at hj
    rw [rsParity, hm, splitStage_setWidth_dwWord (by rw [tick_desc]; omega), hraw]
    rfl

/-! ### CORRECT (R85) -/

section
variable {n m i : Nat} {data : Fin m → BitVec w.bits} {count : BitVec n}

/-- A corrected word fits DW's 12 bits. -/
theorem takeAnswer_ok_dwWord (i : Fin m) : ((takeAnswer (.ok data count) s).dwWord i.val).toNat = (data i).toNat := by
  have hfit : (data i).toNat < 4096 := (data i).isLt.trans_le (two_pow_bits_le w)
  simp [takeAnswer, State.dwWord, writeFrom_read, Nat.mod_eq_of_lt hfit]

theorem takeAnswer_ok_dw_read_above (hi : m ≤ i) : (takeAnswer (.ok data count) s).dw.read i = s.dw.read i := by
  rw [takeAnswer, writeFrom_read, if_neg (by omega)]

end

/-- Settles O34: the request is the stated one, and each of the two answers is taken as `takeAnswer` says. -/
theorem correctTakesTheAnswer : Obligations.CorrectTakesTheAnswer := by
  refine ⟨⟨rfl, rfl, rfl, rfl⟩, ?_⟩
  intro s w hwait hq hw m data parity
  have hstep := step_correct hwait hq hw
  generalize hanswer : Config.rs s.params.lenw w (gfConst w) data parity = answer
  have hrequest : rsAnswer w s = answer := hanswer
  rw [hrequest] at hstep
  cases answer with
  | ok data' count =>
    refine ⟨_, hstep, ?_, takeAnswer_ok_dwWord,
      fun i hi => (takeAnswer_ok_dw_read_above hi).trans (by rw [tick_dw])⟩
    simp [takeAnswer]
  | uncorrectable =>
    simpa [takeAnswer, raiseFail, Status.fail] using hstep

/-! ### REPACK (R89, R46, R42) -/

/-- Word `i` of COR is data word `i`: the padding lies above the words. -/
theorem repackStage_corBit_word {i k : Nat} (hi : i < s.dataCount) (hk : k < w.bits) :
    some ((repackStage w s).corBit (i * w.bits + k)) = (toBits w.bits (s.dwWord i).toNat)[k]? := by
  have hbelow : i * w.bits + k < s.dataCount * w.bits := by
    calc i * w.bits + k < (i + 1) * w.bits := by rw [Nat.add_mul]; omega
      _ ≤ s.dataCount * w.bits := Nat.mul_le_mul_right _ hi
  rw [State.corBit, repackStage_cor, memWrite_read_outside _ _ _ _ _ (.inl hbelow), repackWords_read _ _ _ _ _ _ hi hk,
    toBits_getElem? _ _ _ hk, Option.getD_some]

theorem memRead_repackStage {i : Nat} (hi : i < s.dataCount) (hfit : (s.dwWord i).toNat < 2 ^ w.bits) :
    memRead (repackStage w s).corBit (i * w.bits) w.bits = (s.dwWord i).toNat := by
  rw [memRead, readBits_eq_toBits fun k hk => repackStage_corBit_word hi hk, ofBits_toBits_of_lt hfit]

/-- The bits between the last word and the end of its byte are written 0 (R42). -/
theorem repackStage_corBit_padding {j : Nat} (hlen : s.dataCount * w.bits ≤ j) (hbyte : j < wholeBytes (s.dataCount * w.bits)) :
    (repackStage w s).corBit j = false := by
  rw [State.corBit, repackStage_cor, memWrite_read, if_pos ⟨hlen, by rwa [add_padCount]⟩, Nat.zero_testBit, Option.getD_some]

theorem repackStage_cor_read_above {j : Nat} (hbyte : wholeBytes (s.dataCount * w.bits) ≤ j) :
    (repackStage w s).cor.read j = s.cor.read j := by
  rw [repackStage_cor, memWrite_read_outside _ _ _ _ _ (.inr (by rwa [add_padCount])),
    repackWords_read_above _ _ _ _ _ ((le_wholeBytes _).trans hbyte)]

/-- Settles O35: the data words, the padding and the untouched rest of COR are three ranges of its bits. -/
theorem repackWritesCorrectedBits : Obligations.RepackWritesCorrectedBits := by
  intro s w hwait hq hw hfit len
  have hlen : s.tick.dataCount * w.bits = len := by rw [State.dataCount, tick_desc]
  refine ⟨repackStage w s.tick, step_repack hwait hq hw, ?_, fun i hi => ?_, fun j hj hbyte => ?_, fun j hbyte => ?_⟩
  · simp [repackStage, hlen, Status.corrected, Status.atStage]
  · rw [memRead_repackStage (by rwa [State.dataCount, tick_desc]) (by rw [tick_dwWord]; exact hfit i hi), tick_dwWord]
  · exact repackStage_corBit_padding (by rwa [hlen]) (by rw [hlen, wholeBytes]; omega)
  · rw [repackStage_cor_read_above (by rw [hlen, wholeBytes]; omega), tick_cor]

end Sys2Proof.Machine
end

section
/-! SUPPORT. The stripper's words (spec/41_padding_stripper.md R102 to R106): a step of its loop runs the decoded word, and each class
appends the bits that `emitWord` names (O8, O15 to O18). -/

namespace Sys2Proof.Machine

variable {w : EccWidth} {v : Nat}

/-! ### The classes of words (R62) -/

theorem sixtyFour_le_two_pow_bits (w : EccWidth) : 64 ≤ 2 ^ w.bits := by cases w <;> decide

theorem decodeStuffed_one (w : EccWidth) : decodeStuffed w 1 = .stuff0 w := rfl

theorem decodeStuffed_high (w : EccWidth) : decodeStuffed w (2 ^ w.bits - 2) = .stuff1 w := by cases w <;> rfl

theorem decodeStuffed_plain (hlow : v ≠ 1) (hhigh : v ≠ 2 ^ w.bits - 2) : decodeStuffed w v = .pass w (BitVec.ofNat 12 v) := by
  rw [decodeStuffed, if_neg hlow, if_neg hhigh]

theorem emitWord_one (w : EccWidth) : emitWord w 1 = List.replicate (w.bits - 1) false := by cases w <;> rfl

theorem emitWord_high (w : EccWidth) : emitWord w (2 ^ w.bits - 2) = List.replicate (w.bits - 1) true := by cases w <;> rfl

theorem emitWord_plain (hlow : v ≠ 1) (hhigh : v ≠ 2 ^ w.bits - 2) : emitWord w v = toBits w.bits v := by
  rw [emitWord, if_neg (not_or.mpr ⟨hlow, hhigh⟩)]

/-! ### What a word appends (R103 to R105) -/

/-- Running the word of a value appends what that value emits. A plain word's value is not cut: every width fits the 12 bits of an
operand. -/
theorem exec_decodeStuffed_emits (hv : v < 2 ^ w.bits) (s : State) :
    ∃ n p, toBits n p = emitWord w v ∧ exec (decodeStuffed w v) s = .next (appendBits n p s) := by
  by_cases hlow : v = 1
  · subst hlow
    exact ⟨w.bits - 1, stuffedPayload 1, rfl, rfl⟩
  by_cases hhigh : v = 2 ^ w.bits - 2
  · subst hhigh
    rw [decodeStuffed_high, emitWord, if_pos (.inr rfl)]
    exact ⟨_, _, rfl, rfl⟩
  · have hfit : (BitVec.ofNat 12 v).toNat = v := by
      rw [BitVec.toNat_ofNat, Nat.mod_eq_of_lt (hv.trans_le (two_pow_bits_le w))]
    rw [decodeStuffed_plain hlow hhigh, emitWord_plain hlow hhigh]
    exact ⟨w.bits, _, by rw [hfit], rfl⟩

theorem exec_decodeStuffed_dstGrewBy (hv : v < 2 ^ w.bits) (s : State) :
    ∃ t, exec (decodeStuffed w v) s = .next t ∧ s.dstGrewBy t (emitWord w v) := by
  obtain ⟨n, p, hbits, hexec⟩ := exec_decodeStuffed_emits hv s
  exact ⟨_, hexec, hbits ▸ appendBits_dstGrewBy s n p⟩

/-- A plain word appends its own bits (R105). -/
theorem exec_decodeStuffed_plain (hv : v < 2 ^ w.bits) (hlow : v ≠ 1) (hhigh : v ≠ 2 ^ w.bits - 2) (s : State) :
    ∃ t, exec (decodeStuffed w v) s = .next t ∧ s.dstGrewBy t (toBits w.bits v) :=
  emitWord_plain hlow hhigh ▸ exec_decodeStuffed_dstGrewBy hv s

/-- Settles O15: the word of value 1 emits zeros. -/
theorem stuffedLowWordEmitsZeros : Obligations.StuffedLowWordEmitsZeros := by
  intro w s
  have h64 := sixtyFour_le_two_pow_bits w
  exact ⟨decodeStuffed_one w, emitWord_one w ▸ exec_decodeStuffed_dstGrewBy (w := w) (v := 1) (by omega) s⟩

/-- Settles O16: the word of value `2^w - 2` emits ones. -/
theorem stuffedHighWordEmitsOnes : Obligations.StuffedHighWordEmitsOnes := by
  intro w s
  have h64 := sixtyFour_le_two_pow_bits w
  have hexec := exec_decodeStuffed_dstGrewBy (w := w) (v := 2 ^ w.bits - 2) (by omega) s
  rw [decodeStuffed_high, emitWord_high] at hexec
  exact ⟨decodeStuffed_high w, hexec⟩

/-- Settles O17: the word of any other value emits its own bits. -/
theorem plainWordPassesUnchanged : Obligations.PlainWordPassesUnchanged := by
  intro w v s hv hlow hhigh
  have hdecode := decodeStuffed_plain hlow hhigh
  exact ⟨hdecode, hdecode ▸ exec_decodeStuffed_plain hv hlow hhigh s⟩

/-- Settles O18: none of the four values is stuffed, and their bits are the stated ones at each width. -/
theorem boundaryWordsPass : Obligations.BoundaryWordsPass := by
  intro w s
  have h64 := sixtyFour_le_two_pow_bits w
  have hzero : toBits w.bits 0 = List.replicate w.bits false := by cases w <;> rfl
  have hmax : toBits w.bits (2 ^ w.bits - 1) = List.replicate w.bits true := by cases w <;> rfl
  have htwo : toBits w.bits 2 = List.replicate (w.bits - 2) false ++ [true, false] := by cases w <;> rfl
  have hmaxTwo : toBits w.bits (2 ^ w.bits - 3) = List.replicate (w.bits - 2) true ++ [false, true] := by cases w <;> rfl
  rw [← hzero, ← hmax, ← htwo, ← hmaxTwo]
  refine ⟨?_, ?_, ?_, ?_⟩ <;> exact exec_decodeStuffed_plain (by omega) (by omega) (by omega) s

/-! ### A turn of the loop (R102) -/

section
variable {s : State}

theorem step_stripWord (hwait : s.hostWaits) (hq : s.seq = .strip) (hw : s.desc.wordBits.toNat = w.bits)
    (hk : s.stripPos < s.wordsIn w) : step s = exec (decodeStuffed w (s.corWord w s.stripPos)) (fetchWord s.tick) := by
  have hk' : s.tick.stripPos < s.tick.wordsIn w := by simpa [State.wordsIn] using hk
  rw [step_of_waits hwait, blockStep_strip (by rw [tick_seq, hq]), stripStep_word (ofBits?_tick hw) hk', tick_corWord, tick_stripPos]

theorem step_stripEnd (hwait : s.hostWaits) (hq : s.seq = .strip) (hw : s.desc.wordBits.toNat = w.bits)
    (hk : s.wordsIn w ≤ s.stripPos) : step s = .next (leaveStrip s.tick) := by
  have hk' : ¬ s.tick.stripPos < s.tick.wordsIn w := by simpa [State.wordsIn] using hk
  rw [step_of_waits hwait, blockStep_strip (by rw [tick_seq, hq]), stripStep_end (ofBits?_tick hw) hk']

end

theorem ofBits_take_readBits (get : Nat → Bool) (p : Nat) {n m : Nat} (h : n ≤ m) :
    ofBits ((readBits get p m).take n) = memRead get p n := by
  have htake := readBits_drop_take get p m 0 n (by omega)
  rw [List.drop_zero, Nat.add_zero] at htake
  rw [htake, memRead]

/-- Settles O8: a whole word left in COR is a word below the count of words, and decodes to the class that the loop runs. -/
theorem stepRunsDecodedWord : Obligations.StepRunsDecodedWord := by
  intro s i rest hwait hq hdecode
  obtain ⟨hlen, hentry, -⟩ := decode_eq_ok_iff.mp hdecode
  obtain ⟨w, hw, rfl⟩ := Option.map_eq_some_iff.mp hentry
  have hbits := eq_bits_of_ofBits? hw
  rw [Ctx.width, readBits_length, hbits] at hlen
  have hpos := bits_pos w
  have hk : s.stripPos < s.wordsIn w := by
    rw [State.wordsIn, Nat.lt_iff_add_one_le, Nat.le_div_iff_mul_le hpos, Nat.succ_mul]
    omega
  rw [step_stripWord hwait hq hbits hk, Ctx.width, hbits, ofBits_take_readBits _ _ hlen, State.corWord, fetchWord, tick_stripPos]

end Sys2Proof.Machine
end

section
/-! SUPPORT. `StripPadding` as a function (spec/41_padding_stripper.md R107, R108): the output by one more word, from which its length and
the identity without stuffed words follow (O50, O51). -/

namespace Sys2Proof.Machine

variable {w : EccWidth}

/-- One more word adds, at the end, what that word emits (R102). -/
theorem stripWords_succ (w : EccWidth) (n : Nat) (l : List Bool) :
    stripWords w (n + 1) l = stripWords w n l ++ emitWord w (wordAt w l n) := by
  induction n generalizing l with
  | zero => simp [stripWords, wordAt]
  | succ n ih =>
    rw [stripWords, ih, stripWords, List.append_assoc, wordAt, wordAt, List.drop_drop, Nat.succ_mul, Nat.add_comm w.bits]

/-! ### The output's length (R107) -/

theorem emitWord_length_add (w : EccWidth) (v : Nat) : (emitWord w v).length + (isStuffed w v).toNat = w.bits := by
  have hpos := bits_pos w
  by_cases h : v = 1 ∨ v = 2 ^ w.bits - 2
  · simp only [emitWord, isStuffed, h, if_true, toBits_length, decide_true, Bool.toNat_true]
    omega
  · simp [emitWord, isStuffed, h]

theorem stripWords_length_add (w : EccWidth) (l : List Bool) (n : Nat) :
    (stripWords w n l).length + stuffedCount w l n = n * w.bits := by
  induction n with
  | zero => simp [stripWords, stuffedCount]
  | succ n ih =>
    have hword := emitWord_length_add w (wordAt w l n)
    rw [stripWords_succ, List.length_append, stuffedCount, Nat.succ_mul]
    omega

theorem stuffedCount_le (w : EccWidth) (l : List Bool) (n : Nat) : stuffedCount w l n ≤ n := by
  induction n with
  | zero => exact le_rfl
  | succ n ih => exact Nat.add_le_add ih (Bool.toNat_le _)

theorem stripPadding_eq_ok_iff {l dst : List Bool} :
    stripPadding w l = .ok dst ↔ l.length % w.bits = 0 ∧ stripWords w (l.length / w.bits) l = dst := by
  by_cases h : l.length % w.bits = 0 <;> simp [stripPadding, h]

/-- Settles O50: each word emits its width, less one bit if it is stuffed. -/
theorem stripperOutputLength : Obligations.StripperOutputLength := by
  intro w l dst h
  obtain ⟨hmod, rfl⟩ := stripPadding_eq_ok_iff.mp h
  have hlen := stripWords_length_add w l (l.length / w.bits)
  rw [Nat.div_mul_cancel (Nat.dvd_of_mod_eq_zero hmod)] at hlen
  have hcount := stuffedCount_le w l (l.length / w.bits)
  refine ⟨hlen, by omega, by omega, ?_⟩
  rintro rfl
  simp [stripWords]

/-! ### Streams without stuffed words (R108) -/

/-- The first words of a stream, none of them stuffed, are emitted as they are. -/
theorem stripWords_eq_take {l : List Bool} {n : Nat} (hn : n * w.bits ≤ l.length)
    (hplain : ∀ k, k < n → wordAt w l k ≠ 1 ∧ wordAt w l k ≠ 2 ^ w.bits - 2) : stripWords w n l = l.take (n * w.bits) := by
  induction n with
  | zero => simp [stripWords]
  | succ n ih =>
    rw [Nat.succ_mul] at hn
    obtain ⟨hlow, hhigh⟩ := hplain n (Nat.lt_succ_self n)
    have hword : ((l.drop (n * w.bits)).take w.bits).length = w.bits := by
      rw [List.length_take, List.length_drop]
      omega
    rw [stripWords_succ, ih (by omega) fun k hk => hplain k (by omega), emitWord_plain hlow hhigh, wordAt, toBits_ofBits' hword,
      Nat.succ_mul, List.take_add]

/-- Settles O51: without stuffed words all words are emitted as they are. The words 1, 62, 1, 1, 1, 1 of six bits leave five whole words,
and the first of these, 1, is stuffed again. -/
theorem stripperIdentityWithoutStuffing : Obligations.StripperIdentityWithoutStuffing := by
  constructor
  · intro w l hmod hplain
    have hlen : l.length / w.bits * w.bits = l.length := Nat.div_mul_cancel (Nat.dvd_of_mod_eq_zero hmod)
    rw [stripPadding_eq_ok_iff, stripWords_eq_take hlen.le hplain, hlen, List.take_length]
    exact ⟨hmod, rfl⟩
  · refine ⟨.w6, [1, 62, 1, 1, 1, 1].flatMap (toBits 6), [0, 31, 0, 0, 0, 0].flatMap (toBits 5), rfl, ?_⟩
    rw [Ne, stripPadding_eq_ok_iff]
    decide

end Sys2Proof.Machine
end

section
/-! SUPPORT. The stripper's run (spec/41_padding_stripper.md R100 to R102): its check, and the loop as a simulation of `stripWords` on the
bits of COR (O36, O52). -/

namespace Sys2Proof.Machine

variable {s : State} {w : EccWidth}

/-! ### The check (R101) -/

theorem step_stripCheck (hwait : s.hostWaits) (hq : s.seq = .stripCheck) (hw : s.desc.wordBits.toNat = w.bits) :
    step s = .next (stripCheck w s.tick) := by
  rw [step_of_waits hwait, blockStep_stripCheck (by rw [tick_seq, hq]), withWidth_of_some (ofBits?_tick hw)]

theorem stripCheck_of_whole (h : s.results.corLen % w.bits = 0) :
    stripCheck w s = { s with dstLen := 0, stripPos := 0, seq := .strip } := by
  rw [stripCheck, if_neg (not_not.mpr h)]

theorem stripCheck_of_partial (h : s.results.corLen % w.bits ≠ 0) : stripCheck w s = raiseFatal .stripLength s := by
  rw [stripCheck, if_pos h]

/-- REPACK leaves whole words in COR (R46). -/
theorem corLen_mod_bits_of_inv (h : s.Inv) (hq : s.seq.pastRepack = true) (hw : s.desc.wordBits.toNat = w.bits) :
    s.results.corLen % w.bits = 0 := by
  obtain ⟨-, -, -, -, ⟨hcorLen, -⟩, -⟩ := h
  rw [hcorLen hq, hw, Nat.mul_mod_left]

/-- Settles O36: the two branches of the check, and `COR_LEN` as REPACK left it. -/
theorem stripperPrecondition : Obligations.StripperPrecondition := by
  intro s w hwait hq hw
  have hstep := step_stripCheck hwait hq hw
  refine ⟨fun hpartial => ?_, fun hwhole => ?_, fun hinv => corLen_mod_bits_of_inv hinv (by rw [hq]; rfl) hw⟩
  · rw [hstep, stripCheck_of_partial (by rwa [tick_results]), raiseFatal, tick_status, Status.fatalStop]
  · rw [hstep, stripCheck_of_whole (by rwa [tick_results])]

/-! ### The loop (R102) -/

/-- The loop before word `k`, with `len` bits in DST so far; the rest is as the check found it. -/
def State.inStrip (s : State) (dst : Memory Bool) (len k : Nat) : State :=
  { s with dst := dst, dstLen := len, stripPos := k, seq := .strip }

/-- Word `k` of COR is word `k` of the sequence of its valid bits. -/
theorem corWord_eq_wordAt {k : Nat} (hk : k < s.wordsIn w) : s.corWord w k = wordAt w s.corBits k := by
  have hle : k * w.bits + w.bits ≤ s.results.corLen := by
    rw [← Nat.succ_mul, ← Nat.le_div_iff_mul_le (bits_pos w)]
    exact hk
  rw [State.corWord, memRead, wordAt, State.corBits, readBits_drop_take _ _ _ _ _ hle, Nat.zero_add]

/-- A turn of the loop appends to DST what the next word of COR emits. -/
theorem step_inStrip {dst : Memory Bool} {len k : Nat} (hsilent : s.hostSilent) (hw : s.desc.wordBits.toNat = w.bits)
    (hk : k < s.wordsIn w) :
    ∃ dst' len', step (s.inStrip dst len k) = .next (s.inStrip dst' len' (k + 1)) ∧
      (s.inStrip dst' len' (k + 1)).dstBits = (s.inStrip dst len k).dstBits ++ emitWord w (wordAt w s.corBits k) := by
  have hsilent' : (s.inStrip dst len k).hostSilent := hsilent
  have hstep := step_stripWord (s := s.inStrip dst len k) (hostWaits_of_silent hsilent') rfl hw hk
  obtain ⟨n, p, hbits, hexec⟩ :=
    exec_decodeStuffed_emits (memRead_lt s.corBit (k * w.bits) w.bits) (fetchWord (s.inStrip dst len k))
  rw [tick_of_silent hsilent'] at hstep
  refine ⟨memWrite dst len n p, len + n, hstep.trans hexec, ?_⟩
  rw [← corWord_eq_wordAt hk, State.corWord, ← hbits]
  have hgrown := dstBits_of_dstGrewBy (appendBits_dstGrewBy (fetchWord (s.inStrip dst len k)) n p)
  exact hgrown

/-- After `k` turns of the loop DST holds what the first `k` words of COR emit. -/
theorem runFor_inStrip (hsilent : s.hostSilent) (hw : s.desc.wordBits.toNat = w.bits) {k : Nat} (hk : k ≤ s.wordsIn w) :
    ∃ dst len, runFor k (s.inStrip s.dst 0 0) = .next (s.inStrip dst len k) ∧
      (s.inStrip dst len k).dstBits = stripWords w k s.corBits := by
  induction k with
  | zero => exact ⟨s.dst, 0, rfl, rfl⟩
  | succ k ih =>
    obtain ⟨dst, len, hrun, hdst⟩ := ih (by omega)
    obtain ⟨dst', len', hstep, hdst'⟩ := step_inStrip (dst := dst) (len := len) hsilent hw hk
    refine ⟨dst', len', ?_, ?_⟩
    · rw [runFor_add hrun, runFor_succ hstep, runFor_zero]
    · rw [hdst', hdst, stripWords_succ]

/-- Settles O52: the check empties DST, the loop turns once for each word of COR, and the last step leaves for stage 3. -/
theorem stripperRunIsStripPadding : Obligations.StripperRunIsStripPadding := by
  intro s w hsilent hq hw hwhole
  have hcheck : step s = .next (s.inStrip s.dst 0 0) := by
    rw [step_stripCheck (hostWaits_of_silent hsilent) hq hw, tick_of_silent hsilent, stripCheck_of_whole hwhole, State.inStrip]
  obtain ⟨dst, len, hrun, hdst⟩ := runFor_inStrip hsilent hw (le_refl (s.wordsIn w))
  have hsilent' : (s.inStrip dst len (s.wordsIn w)).hostSilent := hsilent
  have hleave := step_stripEnd (s := s.inStrip dst len (s.wordsIn w)) (hostWaits_of_silent hsilent') rfl hw le_rfl
  rw [tick_of_silent hsilent'] at hleave
  have hcor : s.corBits.length = s.results.corLen := readBits_length _ _ _
  refine ⟨leaveStrip (s.inStrip dst len (s.wordsIn w)), ?_, stripPadding_eq_ok_iff.mpr ⟨by rwa [hcor], ?_⟩, rfl⟩
  · rw [← State.wordsIn, runFor_succ hcheck, runFor_add hrun, runFor_succ hleave, runFor_zero]
  · rw [hcor, ← State.wordsIn, ← hdst]
    rfl

end Sys2Proof.Machine
end

section
/-! SUPPORT. Stage 3 begins, and its loop's guard and fetch (spec/42_mode_decoder_loop.md R111, R112, R129), as steps (O7, O19, O37). -/

namespace Sys2Proof.Machine

section
variable {s : State}

theorem step_modeInit (hwait : s.hostWaits) (hq : s.seq = .modeInit) : step s = .next (resetTransient s.tick) := by
  rw [step_of_waits hwait, blockStep_modeInit (by rw [tick_seq, hq])]

theorem step_loopEnd (hwait : s.hostWaits) (hq : s.seq = .mode) (hfew : s.bitsLeft < symWidth s.params.byteWidth s.md.mode) :
    step s = .next (finish s.tick) := by
  rw [step_of_waits hwait, blockStep_mode (by rw [tick_seq, hq]), modeStep_end (by simpa [State.bitsLeft] using hfew)]

theorem step_symbol (hwait : s.hostWaits) (hready : s.symbolReady) : step s = exec s.nextSymbol (fetchSymbol s.tick) := by
  obtain ⟨hq, hbits⟩ := hready
  rw [step_of_waits hwait, blockStep_mode (by rw [tick_seq, hq]), modeStep_symbol (by simpa [State.bitsLeft] using hbits), tick_md,
    tick_symbolValue, State.nextSymbol]

theorem fetchSymbol_tick (s : State) :
    fetchSymbol s.tick = { s.tick with md := { s.md with pos := s.md.pos + symWidth s.params.byteWidth s.md.mode } } := by
  simp only [fetchSymbol, tick_md, tick_params]

end

/-- Settles O7: what decodes is a whole symbol, and its value is the one that the loop reads. -/
theorem stepRunsDecodedSymbol : Obligations.StepRunsDecodedSymbol := by
  intro s i rest hwait hq hdecode
  obtain ⟨hlen, hentry, -⟩ := decode_eq_ok_iff.mp hdecode
  rw [Ctx.width, readBits_length] at hlen
  have hi : s.nextSymbol = i := by
    rw [Ctx.width, ofBits_take_readBits _ _ hlen] at hentry
    exact Option.some.inj hentry
  rw [step_symbol hwait ⟨hq, hlen⟩, hi, fetchSymbol_tick]

/-- Settles O19: with too few bits the loop's end is `finish`, else the symbol at POS runs after the fetch. -/
theorem symbolLoopGuard : Obligations.SymbolLoopGuard := by
  intro s hwait hq
  refine ⟨fun hfew => ?_, fun hready => ⟨memRead_lt _ _ _, ?_⟩⟩
  · exact ⟨_, step_loopEnd hwait hq hfew, rfl, rfl, rfl, by rw [finish_md, tick_md]⟩
  · rw [step_symbol hwait ⟨hq, hready⟩, fetchSymbol_tick, State.nextSymbol, State.symbolValue]

/-- Settles O37: the stripper's last step and the reset of the transient state, with the host's tick. -/
theorem modeDecodeStartsFresh : Obligations.ModeDecodeStartsFresh := by
  refine ⟨fun s w hwait hq hw hlast => ?_, fun s hwait hq => ?_⟩
  · rw [step_stripEnd hwait hq hw hlast, leaveStrip, tick_status, Status.atStage]
  · rw [step_modeInit hwait hq, resetTransient, tick_md, Decoder.restart]

end Sys2Proof.Machine
end

section
/-! SUPPORT. Who writes the message (spec/42_mode_decoder_loop.md R121, spec/49_decode_driver.md R217): what every move but the loop's
successful end and hardware reset keeps (O21). -/

namespace Sys2Proof.Machine

/-- MSG, `MSG_LEN` and `MSG_VALID` depend on three fields of a state. -/
theorem messageKept_of_eq {s t : State} (hmsg : t.msg = s.msg) (hresults : t.results = s.results)
    (hvalid : t.status.msgValid = s.status.msgValid) : s.messageKept t := ⟨hmsg, by rw [hresults], hvalid⟩

theorem messageKept_of_tick {s t : State} (h : s.tick.messageKept t) : s.messageKept t := by
  simpa [State.messageKept] using h

theorem State.messageKept.trans {s t u : State} (hst : s.messageKept t) (htu : t.messageKept u) : s.messageKept u := by
  obtain ⟨hmsg, hlen, hvalid⟩ := hst
  obtain ⟨hmsg', hlen', hvalid'⟩ := htu
  exact ⟨hmsg'.trans hmsg, hlen'.trans hlen, hvalid'.trans hvalid⟩

theorem messageKept_of_symbolDone {s t : State} {v : Nat} {m : Mode} {shifted : Bool} {cs : List Char8}
    (h : s.symbolDone t v m shifted cs) : s.messageKept t := by
  obtain ⟨-, -, -, -, -, -, -, -, -, hresults, hstatus, -, -, -, -, -, hmsg, -⟩ := h
  exact messageKept_of_eq hmsg hresults (by rw [hstatus])

theorem messageKept_of_symbolFailed {s t : State} {c : Cause} (h : s.symbolFailed t c) : s.messageKept t := by
  obtain ⟨-, -, -, -, -, -, hvalid, -, -, -, -, -, -, -, -, -, -, hresults, -, -, -, -, -, -, hmsg, -⟩ := h
  exact messageKept_of_eq hmsg hresults hvalid

theorem exec_messageKept {i : Instr} {s t : State} (h : exec i s = .next t) : s.messageKept t := by
  rcases exec_cases h with ⟨_, _, -, hdone⟩ | ⟨_, -, hdone⟩ | ⟨_, -, hdone⟩ | ⟨_, -, hfailed⟩ | ⟨-, _, _, rfl⟩
  · exact messageKept_of_symbolDone hdone
  · exact messageKept_of_symbolDone hdone
  · exact messageKept_of_symbolDone hdone
  · exact messageKept_of_symbolFailed hfailed
  · exact ⟨rfl, rfl, rfl⟩

theorem runChecks_messageKept (s : State) : s.messageKept (runChecks s) := by
  unfold runChecks
  split <;> exact ⟨rfl, rfl, rfl⟩

theorem correctStage_messageKept (w : EccWidth) (s : State) : s.messageKept (correctStage w s) := by
  unfold correctStage
  cases rsAnswer w s <;> exact ⟨rfl, rfl, rfl⟩

theorem stripCheck_messageKept (w : EccWidth) (s : State) : s.messageKept (stripCheck w s) := by
  unfold stripCheck
  split <;> exact ⟨rfl, rfl, rfl⟩

/-- A block step keeps the message, unless it is the successful end of the loop. -/
theorem blockStep_messageKept {s t : State} (h : blockStep s = .next t) :
    s.messageKept t ∨ (s.seq = .mode ∧ s.bitsLeft < symWidth s.params.byteWidth s.md.mode ∧ t = finish s) := by
  have hfatal : s.messageKept (raiseFatal .badWordBits s) := ⟨rfl, rfl, rfl⟩
  rcases blockStep_cases h with ⟨-, rfl⟩ | ⟨-, rfl⟩ | ⟨-, rfl⟩ | ⟨-, rfl⟩ | ⟨-, rfl⟩ | ⟨-, rfl⟩ | ⟨-, -, rfl⟩ |
    ⟨w, -, -, -, hx⟩ | ⟨w, -, -, -, rfl⟩ | ⟨-, rfl⟩ | hend | ⟨-, -, hx⟩
  · exact .inl ⟨rfl, rfl, rfl⟩
  · exact .inl (runChecks_messageKept s)
  · exact .inl (withWidth_of_forall hfatal fun _ => ⟨rfl, rfl, rfl⟩)
  · exact .inl (withWidth_of_forall hfatal fun w => correctStage_messageKept w s)
  · exact .inl (withWidth_of_forall hfatal fun _ => ⟨rfl, rfl, rfl⟩)
  · exact .inl (withWidth_of_forall hfatal fun w => stripCheck_messageKept w s)
  · exact .inl hfatal
  · exact .inl (exec_messageKept (s := fetchWord s) hx)
  · exact .inl ⟨rfl, rfl, rfl⟩
  · exact .inl ⟨rfl, rfl, rfl⟩
  · exact .inr hend
  · exact .inl (exec_messageKept (s := fetchSymbol s) hx)

/-- No host move but hardware reset writes `MSG_VALID`: START leaves it (R212). -/
theorem hostAccess_msgValid {op : HostOp} {s t : State} (hop : op ≠ .hardReset) (h : hostAccess op s = .next t) :
    t.status.msgValid = s.status.msgValid := by
  obtain ⟨-, hcases⟩ := hostAccess_cases h
  rcases hcases with ⟨w, -, rfl⟩ | ⟨i, b, -, -, rfl⟩ | ⟨v, rfl⟩ | ⟨hreset, -⟩
  · cases w with
    | ctrl v => rcases writeCtrl_cases v s with ⟨-, -, -, hx⟩ | hx <;> simp [writeReg, hx]
    | _ => rfl
  · rfl
  · rfl
  · exact absurd hreset hop

theorem hostAccess_messageKept {op : HostOp} {s t : State} (hop : op ≠ .hardReset) (h : hostAccess op s = .next t) :
    s.messageKept t := by
  obtain ⟨hresults, -, -, -, -, -, -, hmsg, -⟩ := hostAccess_outputsKept h hop
  exact messageKept_of_eq hmsg hresults (hostAccess_msgValid hop h)

/-- Settles O21: every host move but hardware reset keeps the message, and so does every block step but the loop's successful end. -/
theorem onlySuccessWritesTheMessage : Obligations.OnlySuccessWritesTheMessage := by
  intro s t h hchange
  rcases step_cases h with ⟨op, rest, hdue, hx⟩ | ⟨hwait, hx⟩
  · have hop : op = .hardReset := by
      by_contra hne
      exact hchange (hostAccess_messageKept (s := { s with host := rest }) hne hx)
    exact .inr ⟨rest, hop ▸ hdue⟩
  · rcases blockStep_messageKept hx with hkept | ⟨hq, hfew, rfl⟩
    · exact absurd (messageKept_of_tick hkept) hchange
    · exact .inl ⟨hwait, by rwa [tick_seq] at hq, by simpa [State.bitsLeft] using hfew, rfl, rfl⟩

end Sys2Proof.Machine
end

section
/-! SUPPORT. The small step of R128: its equation for each dispatch result, and how far one symbol moves the automaton (R123). -/

namespace Sys2Proof.Machine

variable {bw : Nat} {dst : List Bool} {a a' : Auto}

/-- What a whole symbol with dispatch result `act` makes of the automaton (R128). -/
def Auto.answer (bw : Nat) (a : Auto) : Action → AutoResult
  | .appendChars c1 c2 => .next (a.after bw a.mode false (c1 :: c2.toList))
  | .latch m => .next (a.after bw m false [])
  | .shift m => .next (a.after bw m true [])
  | .failSym c => .failed c

theorem autoStep_of_few (hfew : dst.length - a.pos < symWidth bw a.mode) : autoStep bw dst a = .done := by
  rw [autoStep, if_pos hfew]

theorem autoStep_of_whole (hwhole : symWidth bw a.mode ≤ dst.length - a.pos) :
    autoStep bw dst a = a.answer bw (dispatch a.mode (a.value bw dst)) := by
  rw [autoStep, if_neg (by omega)]
  cases dispatch a.mode (a.value bw dst) <;> rfl

theorem Auto.answer_ne_done (act : Action) : a.answer bw act ≠ .done := by
  cases act <;> simp [Auto.answer]

theorem autoStep_eq_done_iff : autoStep bw dst a = .done ↔ dst.length - a.pos < symWidth bw a.mode := by
  refine ⟨fun hdone => ?_, autoStep_of_few⟩
  by_contra hwhole
  rw [autoStep_of_whole (by omega)] at hdone
  exact Auto.answer_ne_done _ hdone

/-- A symbol that goes on did not fail, moves `pos` by its width and appends its characters. -/
theorem Auto.answer_eq_next {act : Action} (h : a.answer bw act = .next a') :
    (∀ c, act ≠ .failSym c) ∧ a'.pos = a.pos + symWidth bw a.mode ∧ a'.out = a.out ++ act.chars := by
  cases act with
  | failSym c => cases h
  | _ => cases h; simp [Auto.after, Action.chars]

/-- Every entry of every table appends at most two characters for every five bits of its width. -/
theorem chars_length_of_mem_tableOf : ∀ m ∈ tableModes, ∀ act ∈ tableOf m, 5 * act.chars.length ≤ 2 * symWidth 0 m := by
  decide

/-- A value that does not fail has an entry of a mode with a table, so at least four bits and no more characters than R123 allows. -/
theorem dispatch_bounds {m : Mode} {v : Nat} (bw : Nat) (h : ∀ c, dispatch m v ≠ .failSym c) :
    4 ≤ symWidth bw m ∧ 5 * (dispatch m v).chars.length ≤ 2 * symWidth bw m := by
  rcases dispatch_failSym_or_mem m v with ⟨c, hfail⟩ | ⟨hm, hmem⟩
  · exact absurd hfail (h c)
  · refine ⟨four_le_symWidth ?_, ?_⟩
    · rintro rfl
      exact absurd hm (by decide)
    · rw [symWidth_of_mem_tableModes hm]
      exact chars_length_of_mem_tableOf m hm _ hmem

/-- Progress (R123): a symbol that goes on takes at least four of the bits left, and two characters take at least five. -/
theorem autoStep_next_bounds (h : autoStep bw dst a = .next a') :
    a.pos + 4 ≤ a'.pos ∧ a'.pos ≤ dst.length ∧ a.out.length ≤ a'.out.length ∧
      5 * (a'.out.length - a.out.length) ≤ 2 * (a'.pos - a.pos) := by
  by_cases hfew : dst.length - a.pos < symWidth bw a.mode
  · rw [autoStep_of_few hfew] at h
    cases h
  · rw [autoStep_of_whole (by omega)] at h
    obtain ⟨hgood, hpos, hout⟩ := Auto.answer_eq_next h
    obtain ⟨hfour, hchars⟩ := dispatch_bounds bw hgood
    rw [hpos, hout, List.length_append]
    omega

end Sys2Proof.Machine
end

section
/-! SUPPORT. One turn of the symbol loop is the small step of R128 (O22), so the loop's run is `autoRun`, the Mode Decoder's run is
`ModeDecode` (O53), and both keep the bounds of R123 (O29). -/

namespace Sys2Proof.Machine

variable {s t : State}

/-! ### The automaton's view of a state (R110) -/

@[simp] theorem auto_out_length (s : State) : s.auto.out.length = s.md.outLen := by simp [State.auto, State.outText]

@[simp] theorem dstBits_length (s : State) : s.dstBits.length = s.dstLen := readBits_length _ _ _

@[simp] theorem auto_tick (s : State) : s.tick.auto = s.auto := by simp [State.auto, State.outText]

theorem dstBits_of_bitBuffersKept (h : s.bitBuffersKept t) : t.dstBits = s.dstBits := by
  have hbit := h.dstBit_eq
  obtain ⟨-, hlen, -⟩ := h
  rw [State.dstBits, hbit, hlen, State.dstBits]

theorem symbolValue_lt (s : State) : s.symbolValue < 2 ^ symWidth s.params.byteWidth s.md.mode := memRead_lt _ _ _

/-- The symbol value of R112 is the automaton's; where POS lies beyond DST, as many bits as fit are none. -/
theorem auto_value (hbits : symWidth s.params.byteWidth s.md.mode ≤ s.bitsLeft) :
    s.auto.value s.params.byteWidth s.dstBits = s.symbolValue := by
  rw [State.symbolValue, Auto.value, memRead, State.dstBits]
  congr 1
  by_cases hpos : s.md.pos ≤ s.dstLen
  · have hle : s.md.pos + symWidth s.params.byteWidth s.md.mode ≤ s.dstLen := by rw [State.bitsLeft] at hbits; omega
    simpa only [State.auto, Nat.zero_add] using readBits_drop_take s.dstBit 0 s.dstLen _ _ hle
  · have hnone : symWidth s.params.byteWidth s.md.mode = 0 := by rw [State.bitsLeft] at hbits; omega
    simp [State.auto, hnone, readBits]

/-- A symbol processed to its end leaves the automaton's next state (R113 to R119, R128). -/
theorem auto_of_symbolDone {v : Nat} {h : Mode} {shifted : Bool} {cs : List Char8}
    (hdone : (fetchSymbol s).symbolDone t v h shifted cs) : t.auto = s.auto.after s.params.byteWidth h shifted cs := by
  obtain ⟨-, -, hmode, hrevert, hpos, hgrew, -, -, -, -, -, -, -, -, -, -, -, -, -, hepoch, -⟩ := hdone
  have hout : t.outText = s.outText ++ cs := outText_of_outGrewBy hgrew hepoch
  rw [State.auto, hmode, hrevert, hpos, hout]
  rfl

/-! ### One turn (R128) -/

/-- `t` is what a turn of the loop from `s` leaves, when the small step gives this answer (R120, R121, R128). -/
def State.turnLeaves (s t : State) : AutoResult → Prop
  | .done => t = finish s
  | .failed c => t = raiseFail c (beginSymbol (fetchSymbol s))
  | .next a => t.auto = a ∧ ∃ v h shifted cs, (fetchSymbol s).symbolDone t v h shifted cs

/-- Running a dispatch result is the automaton's answer to it. -/
theorem runSymbol_turnLeaves (s : State) (v : Nat) (act : Action) :
    ∃ t, runSymbol v act (fetchSymbol s) = .next t ∧ s.turnLeaves t (s.auto.answer s.params.byteWidth act) := by
  cases act with
  | appendChars c1 c2 =>
    obtain ⟨t, hrun, hdone⟩ := runSymbol_append (fetchSymbol s) v c1 c2
    exact ⟨t, hrun, auto_of_symbolDone hdone, _, _, _, _, hdone⟩
  | latch m =>
    obtain ⟨t, hrun, hdone⟩ := runSymbol_latch (fetchSymbol s) v m
    exact ⟨t, hrun, auto_of_symbolDone hdone, _, _, _, _, hdone⟩
  | shift m =>
    obtain ⟨t, hrun, hdone⟩ := runSymbol_shift (fetchSymbol s) v m
    exact ⟨t, hrun, auto_of_symbolDone hdone, _, _, _, _, hdone⟩
  | failSym c => exact ⟨_, rfl, rfl⟩

/-- A turn of the loop answers as the small step does. -/
theorem step_turnLeaves (hwait : s.hostWaits) (hq : s.seq = .mode) :
    ∃ t, step s = .next t ∧ s.tick.turnLeaves t (autoStep s.params.byteWidth s.dstBits s.auto) := by
  by_cases hfew : s.bitsLeft < symWidth s.params.byteWidth s.md.mode
  · rw [autoStep_of_few (by rwa [dstBits_length])]
    exact ⟨_, step_loopEnd hwait hq hfew, rfl⟩
  · have hwhole : symWidth s.params.byteWidth s.md.mode ≤ s.bitsLeft := by omega
    have hv : s.symbolValue < 2 ^ symWidth (fetchSymbol s.tick).params.byteWidth s.md.mode := by
      simpa only [fetchSymbol_params, tick_params] using symbolValue_lt s
    obtain ⟨t, hrun, hturn⟩ := runSymbol_turnLeaves s.tick s.symbolValue (dispatch s.md.mode s.symbolValue)
    rw [auto_tick, tick_params] at hturn
    rw [autoStep_of_whole (by rwa [dstBits_length]), auto_value hwhole, step_symbol hwait ⟨hq, hwhole⟩, State.nextSymbol,
      meaningsFollowTheDispatchTable _ _ _ hv]
    exact ⟨t, hrun, hturn⟩

/-- A turn that goes on leaves the parameters, the results, the status and the driver's place. -/
theorem turnFrame_of_symbolDone {v : Nat} {h : Mode} {shifted : Bool} {cs : List Char8}
    (hdone : (fetchSymbol s).symbolDone t v h shifted cs) :
    t.params = s.params ∧ t.results = s.results ∧ t.status = s.status ∧ t.seq = s.seq := by
  obtain ⟨-, -, -, -, -, -, -, hparams, -, hresults, hstatus, -, -, -, -, -, -, hseq, -⟩ := hdone
  exact ⟨hparams, hresults, hstatus, hseq⟩

theorem dstBits_of_symbolDone {v : Nat} {h : Mode} {shifted : Bool} {cs : List Char8}
    (hdone : (fetchSymbol s).symbolDone t v h shifted cs) : t.dstBits = s.dstBits :=
  dstBits_of_bitBuffersKept (s := fetchSymbol s) (bitBuffersKept_of_symbolDone hdone)

/-- Settles O22: each answer of the small step, read off what the turn leaves. -/
theorem symbolTurnIsTheSmallStep : Obligations.SymbolTurnIsTheSmallStep := by
  intro s hwait hq
  obtain ⟨t, hstep, hturn⟩ := step_turnLeaves hwait hq
  cases hanswer : autoStep s.params.byteWidth s.dstBits s.auto with
  | done =>
    rw [hanswer] at hturn
    obtain rfl : t = finish s.tick := hturn
    exact ⟨_, hstep, rfl, rfl, auto_tick s⟩
  | failed c =>
    rw [hanswer] at hturn
    obtain rfl : t = raiseFail c (beginSymbol (fetchSymbol s.tick)) := hturn
    have hout : s.tick.outText = s.outText := by simp [State.outText]
    exact ⟨_, hstep, rfl, rfl, rfl, hout, messageKept_of_tick ⟨rfl, rfl, rfl⟩⟩
  | next a =>
    rw [hanswer] at hturn
    obtain ⟨hauto, v, h, shifted, cs, hdone⟩ := hturn
    obtain ⟨-, -, hstatus, hseq⟩ := turnFrame_of_symbolDone hdone
    have hdst : s.tick.dstBits = s.dstBits := by simp [State.dstBits]
    refine ⟨t, hstep, by rw [hseq, tick_seq, hq], hauto, (dstBits_of_symbolDone hdone).trans hdst, by rw [hstatus, tick_status], ?_⟩
    exact messageKept_of_tick (messageKept_of_symbolDone (s := fetchSymbol s.tick) hdone)

/-! ### The loop's run (R122, R123) -/

/-- The end of the loop publishes OUT's text (R121). -/
theorem finish_msgText (s : State) : (finish s).msgText = s.outText := by
  refine List.map_congr_left fun i hi => ?_
  have hlt : i < s.md.outLen := by simpa using hi
  simp [State.msgChar, writeFrom_read, hlt]

/-- The end `t` of a loop that began at `s`, when the automaton's run gives this result (R121, R231, R240). -/
def State.loopEnds (s t : State) : Except Cause Auto → Prop
  | .ok a => t.status = s.status.success ∧ t.msgText = a.out ∧ t.results.msgLen = a.out.length
  | .error c => t.status = s.status.fail c ∧ s.messageKept t ∧ t.results = s.results

theorem loopEnds_of_finish (s : State) : s.loopEnds (finish s) (.ok s.auto) :=
  ⟨rfl, finish_msgText s, (auto_out_length s).symm⟩

/-- A loop that goes on for one more symbol ends as from there. -/
theorem loopEnds_of_symbolDone {u : State} {r : Except Cause Auto} {v : Nat} {h : Mode} {shifted : Bool} {cs : List Char8}
    (hdone : (fetchSymbol s).symbolDone t v h shifted cs) (hends : t.loopEnds u r) : s.loopEnds u r := by
  obtain ⟨-, hresults, hstatus, -⟩ := turnFrame_of_symbolDone hdone
  cases r with
  | ok a => simpa only [State.loopEnds, hstatus] using hends
  | error c =>
    obtain ⟨hfail, hkept, hres⟩ := hends
    have hturn : s.messageKept t := messageKept_of_symbolDone (s := fetchSymbol s) hdone
    exact ⟨by rw [hfail, hstatus], hturn.trans hkept, hres.trans hresults⟩

/-- The loop's run is the automaton's, in at most as many steps as a quarter of the bits left and one more for its end (R123): a turn
that goes on leaves at least four bits fewer. -/
theorem runFor_autoRun {fuel : Nat} (hsilent : s.hostSilent) (hq : s.seq = .mode) (hfuel : (s.dstLen - s.md.pos) / 4 < fuel) :
    ∃ n t, n ≤ fuel ∧ runFor n s = .next t ∧ t.seq = .idle ∧
      s.loopEnds t (autoRun s.params.byteWidth s.dstBits fuel s.auto) := by
  induction fuel generalizing s with
  | zero => omega
  | succ fuel ih =>
    obtain ⟨t, hstep, hturn⟩ := step_turnLeaves (hostWaits_of_silent hsilent) hq
    rw [tick_of_silent hsilent] at hturn
    have hone : runFor 1 s = .next t := by rw [runFor_succ hstep, runFor_zero]
    rw [autoRun]
    cases hanswer : autoStep s.params.byteWidth s.dstBits s.auto with
    | done =>
      rw [hanswer] at hturn
      obtain rfl : t = finish s := hturn
      exact ⟨1, _, by omega, hone, rfl, loopEnds_of_finish s⟩
    | failed c =>
      rw [hanswer] at hturn
      obtain rfl : t = raiseFail c (beginSymbol (fetchSymbol s)) := hturn
      exact ⟨1, _, by omega, hone, rfl, rfl, ⟨rfl, rfl, rfl⟩, rfl⟩
    | next a =>
      rw [hanswer] at hturn
      obtain ⟨rfl, v, h, shifted, cs, hdone⟩ := hturn
      have hdst := dstBits_of_symbolDone hdone
      have hlen : t.dstLen = s.dstLen := by rw [← dstBits_length, hdst, dstBits_length]
      obtain ⟨hparams, -, -, hseq⟩ := turnFrame_of_symbolDone hdone
      obtain ⟨hpos, hend, -⟩ := autoStep_next_bounds hanswer
      simp only [State.auto, dstBits_length] at hpos hend
      obtain ⟨n, u, hn, hrun, hidle, hends⟩ := ih (s := t) (hostSilent_of_step hsilent hstep) (hseq.trans hq) (by omega)
      rw [hparams, hdst] at hends
      exact ⟨n + 1, u, by omega, by rw [runFor_succ hstep, hrun], hidle, loopEnds_of_symbolDone hdone hends⟩

theorem auto_resetTransient (s : State) : (resetTransient s).auto = Auto.initial := by
  simp [State.auto, State.outText, Auto.initial]

/-- Settles O53: one step resets the transient state to the automaton's initial one, and from there the loop runs as `autoRun`. -/
theorem modeDecoderRunIsModeDecode : Obligations.ModeDecoderRunIsModeDecode := by
  intro s hsilent hq
  have hstep : step s = .next (resetTransient s) := by
    rw [step_modeInit (hostWaits_of_silent hsilent) hq, tick_of_silent hsilent]
  obtain ⟨n, t, hn, hrun, hidle, hends⟩ :=
    runFor_autoRun (s := resetTransient s) (fuel := symbolBound s.dstBits.length + 1) hsilent rfl
      (by simp [symbolBound, dstBits_length])
  rw [auto_resetTransient] at hends
  refine ⟨n + 1, t, ?_, by rw [runFor_succ hstep, hrun], hidle, ?_⟩
  · rw [symbolBound, dstBits_length] at hn
    omega
  · change State.loopEnds s t (autoRun s.params.byteWidth s.dstBits _ Auto.initial) at hends
    rw [modeDecode]
    cases hresult : autoRun s.params.byteWidth s.dstBits (symbolBound s.dstBits.length + 1) Auto.initial with
    | ok a => rwa [hresult] at hends
    | error c => rwa [hresult] at hends

/-! ### Progress and the output bound (R123) -/

theorem done_of_loopEnds {r : Except Cause Auto} (h : s.loopEnds t r) : t.status.done = true := by
  cases r with
  | ok a => obtain ⟨hstatus, -⟩ := h; rw [hstatus, Status.success_done]
  | error c => obtain ⟨hstatus, -⟩ := h; rw [hstatus, Status.fail_done]

/-- The moves of one symbol, whether or not it ends the loop. -/
theorem step_symbolReady_bounds (hwait : s.hostWaits) (hready : s.symbolReady) :
    ∃ t, step s = .next t ∧ (t.seq = .mode → s.md.pos + 4 ≤ t.md.pos) ∧ (s.md.pos ≤ s.dstLen → t.md.pos ≤ s.dstLen) ∧
      s.md.pos ≤ t.md.pos ∧ s.md.outLen ≤ t.md.outLen ∧ 5 * (t.md.outLen - s.md.outLen) ≤ 2 * (t.md.pos - s.md.pos) := by
  obtain ⟨hq, hbits⟩ := hready
  obtain ⟨t, hstep, hturn⟩ := step_turnLeaves hwait hq
  refine ⟨t, hstep, ?_⟩
  cases hanswer : autoStep s.params.byteWidth s.dstBits s.auto with
  | done =>
    have hfew := autoStep_eq_done_iff.mp hanswer
    rw [dstBits_length] at hfew
    exact absurd hfew (not_lt.mpr hbits)
  | failed c =>
    rw [hanswer] at hturn
    obtain rfl : t = raiseFail c (beginSymbol (fetchSymbol s.tick)) := hturn
    have hpos : (raiseFail c (beginSymbol (fetchSymbol s.tick))).md.pos = s.md.pos + symWidth s.params.byteWidth s.md.mode := by simp
    have hout : (raiseFail c (beginSymbol (fetchSymbol s.tick))).md.outLen = s.md.outLen := by simp
    rw [State.bitsLeft] at hbits
    rw [hpos, hout]
    exact ⟨by rintro ⟨⟩, by omega, by omega, le_rfl, by omega⟩
  | next a =>
    rw [hanswer] at hturn
    obtain ⟨rfl, -⟩ := hturn
    obtain ⟨hpos, hend, hout, hchars⟩ := autoStep_next_bounds hanswer
    rw [auto_out_length, auto_out_length] at hout hchars
    rw [dstBits_length] at hend
    exact ⟨fun _ => hpos, fun _ => hend, (Nat.le_add_right _ 4).trans hpos, hout, hchars⟩

/-- In the symbol loop OUT, DST and their capacities form R123's chain. -/
theorem outLen_chain (h : s.Inv) (hq : s.seq = .mode) :
    s.md.outLen ≤ 2 * s.dstLen / 5 ∧ 2 * s.dstLen / 5 ≤ 2 * s.params.corCapBits / 5 ∧
      2 * s.params.corCapBits / 5 ≤ s.params.msgCap := by
  have hout := outLen_bound h hq
  have hcor := corLen_le_corCapBits h (by rw [hq]; rfl)
  obtain ⟨-, -, -, -, ⟨-, -, hdst, hmode⟩, ⟨hmsg, -⟩, -⟩ := h
  obtain ⟨hpos, -⟩ := hmode hq
  have hdst := hdst (.inr hq)
  exact ⟨by omega, by omega, hmsg⟩

/-- Settles O29: the moves of one symbol, the length of the loop's run, and the chain of the invariant's bounds. -/
theorem symbolLoopTerminatesWithinBounds : Obligations.SymbolLoopTerminatesWithinBounds := by
  refine ⟨fun s => step_symbolReady_bounds, fun s hsilent hq => ?_, fun s => outLen_chain⟩
  obtain ⟨n, t, hn, hrun, hidle, hends⟩ := runFor_autoRun hsilent hq (Nat.lt_succ_self _)
  exact ⟨n, t, hn, hrun, hidle, done_of_loopEnds hends⟩

end Sys2Proof.Machine
end

section
/-! SUPPORT. One symbol after another: the failing symbols, what the revert rules leave, and a shift with the symbol read under it
(spec/42_mode_decoder_loop.md R113, R118 to R120, R124, R125; O14, O23 to O26). -/

namespace Sys2Proof.Machine

/-! ### Each kind of dispatch result, as the symbol's meaning (R115 to R117, R120) -/

section
variable {i : Instr}

theorem exec_append_done {c1 : Char8} {c2 : Option Char8} (s : State) (h : symbolAction i = some (.appendChars c1 c2)) :
    ∃ t, exec i s = .next t ∧ s.symbolDone t (encodeValue i) s.md.mode false (c1 :: c2.toList) := by
  rw [exec_symbol s h]
  exact runSymbol_append s _ c1 c2

theorem exec_latch_done {m : Mode} (s : State) (h : symbolAction i = some (.latch m)) :
    ∃ t, exec i s = .next t ∧ s.symbolDone t (encodeValue i) m false [] := by
  rw [exec_symbol s h]
  exact runSymbol_latch s _ m

theorem exec_shift_done {m : Mode} (s : State) (h : symbolAction i = some (.shift m)) :
    ∃ t, exec i s = .next t ∧ s.symbolDone t (encodeValue i) m true [] := by
  rw [exec_symbol s h]
  exact runSymbol_shift s _ m

/-- A symbol that does not fail has a dispatch result that does not (R73, R120). -/
theorem exists_action_of_notFailing (hs : isSymbol i) (hf : isFailing i = false) :
    ∃ act, symbolAction i = some act ∧ ∀ c, act ≠ .failSym c := by
  rcases symbolAction_of_notFailing hs hf with ⟨c1, c2, ha, -⟩ | ⟨m, ha, -⟩ | ⟨m, ha, -⟩ <;> exact ⟨_, ha, by simp⟩

/-- The shifts are the entries with a shift as dispatch result (R73). -/
theorem exists_shift_of_isShift (h : isShift i = true) : ∃ m, symbolAction i = some (.shift m) := by
  cases i <;> cases h <;> exact ⟨_, rfl⟩

/-- PUNCT has no shift (R125). -/
theorem isShift_of_ctx_punct (h : i.ctx = .symbol .punct) : isShift i = false := by
  cases i <;> cases h <;> rfl

end

/-! ### The failing symbols (R120, R170, R200) -/

/-- A step that reads a failing symbol raises its failure with POS past it, and keeps the pending revert and the message. -/
theorem step_failing {c : Cause} {s : State} (hwait : s.hostWaits) (hready : s.symbolReady)
    (ha : symbolAction s.nextSymbol = some (.failSym c)) :
    ∃ t, step s = .next t ∧ t.status.cause = c ∧ t.status.ok = false ∧ t.status.busy = false ∧ t.status.done = true ∧
      t.status.stage = s.status.stage ∧ t.seq = .idle ∧ t.md.pos = s.md.pos + symWidth s.params.byteWidth s.md.mode ∧
      t.md.revert = s.md.revert ∧ s.messageKept t := by
  rw [step_symbol hwait hready, exec_symbol _ ha, runSymbol]
  exact ⟨_, rfl, by simp [State.messageKept]⟩

/-- Settles O14: both entries dispatch to their failure, and a step that reads one does nothing else but fetch it. -/
theorem failingSymbolsEndTheDecode : Obligations.FailingSymbolsEndTheDecode := by
  refine ⟨fun s => runSymbol_fail s 0 _, fun s v => runSymbol_fail s v _, fun s hwait hready hm hv => ?_, fun s hwait hready hm => ?_⟩
  · have hi : s.nextSymbol = .pFLG := by rw [State.nextSymbol, hm, hv]; rfl
    have hfail := step_failing (c := .flgUnsupported) hwait hready (by rw [hi]; rfl)
    rwa [hm] at hfail
  · have hi : s.nextSymbol = .bANY s.symbolValue := by rw [State.nextSymbol, hm]; rfl
    have hfail := step_failing (c := .byteUnsupported) hwait hready (by rw [hi]; rfl)
    rwa [hm] at hfail

/-! ### Steps 2, 4 and 5 (R113, R118, R119) -/

/-- The state with a given pending revert. -/
def State.pending (s : State) (r : Option Mode) : State := { s with md := { s.md with revert := r } }

/-- The handlers of step 3 neither read nor write `REVERT`, so the ends of the symbol with and without one differ in MODE alone. -/
theorem runSymbol_pending {act : Action} (v : Nat) (s : State) (m : Mode) (h : ∀ c, act ≠ .failSym c) :
    ∃ t, runSymbol v act (s.pending none) = .next t ∧
      runSymbol v act (s.pending (some m)) = .next { t with md := { t.md with mode := m } } := by
  cases act with
  | appendChars c1 c2 => cases c2 <;> exact ⟨_, rfl, rfl⟩
  | latch _ => exact ⟨_, rfl, rfl⟩
  | shift _ => exact ⟨_, rfl, rfl⟩
  | failSym c => exact absurd rfl (h c)

/-- Settles O23: a symbol that does not fail runs a dispatch result that does not, with the revert after it. -/
theorem pendingRevertOverridesHandler : Obligations.PendingRevertOverridesHandler := by
  intro i s m hi hf
  obtain ⟨act, ha, hgood⟩ := exists_action_of_notFailing hi hf
  rw [exec_symbol _ ha, exec_symbol _ ha]
  exact runSymbol_pending _ s m hgood

/-- Settles O24: what a symbol leaves says the three. -/
theorem revertIsRecomputed : Obligations.RevertIsRecomputed := by
  intro i s hi hf
  obtain ⟨t, h, cs, ht, hprior, hlatched, -, hrevert, -⟩ := exec_symbolDone s hi hf
  refine ⟨t, ht, hprior, hlatched, ?_⟩
  rw [hrevert, hlatched, hprior]
  cases isShift i <;> rfl

/-! ### A shift and the symbol after it (R124, R125) -/

/-- After a shift MODE is its target, or the pending revert's, and the mode that read it is to come back. -/
theorem exec_shift_mode {i : Instr} {m : Mode} (s : State) (h : symbolAction i = some (.shift m)) :
    ∃ t, exec i s = .next t ∧ t.md.mode = s.md.revert.getD m ∧ t.md.latched = false ∧ t.md.revert = some s.md.mode ∧
      t.md.outLen = s.md.outLen := by
  obtain ⟨t, ht, -, hlatched, hmode, hrevert, -, ⟨hlen, -⟩, -⟩ := exec_shift_done s h
  exact ⟨t, ht, hmode, hlatched, hrevert, hlen⟩

/-- The symbol read under a pending revert restores that mode, and leaves a new revert only if it is a shift itself. -/
theorem exec_under_revert {j : Instr} {t : State} {m : Mode} (hj : isSymbol j) (hf : isFailing j = false) (hrev : t.md.revert = some m) :
    ∃ u, exec j t = .next u ∧ u.md.mode = m ∧ u.md.latched = !isShift j ∧
      u.md.revert = if isShift j then some t.md.mode else none := by
  obtain ⟨u, h, cs, hu, -, hlatched, hmode, hrevert, -⟩ := exec_symbolDone t hj hf
  rw [hrev, Option.getD_some] at hmode
  exact ⟨u, hu, hmode, hlatched, hrevert⟩

/-- Settles O25: the source's two streams, and in general the revert that the shift left, consumed by the symbol after it. -/
theorem shiftRevertsExactlyOnce : Obligations.ShiftRevertsExactlyOnce := by
  refine ⟨fun s hmode hrev => ⟨?_, ?_⟩, fun s i j hi hj hf => ?_⟩
  · obtain ⟨t, ht, -, -, htmode, htrev, -⟩ := exec_latch_done (i := .uLL) s rfl
    obtain ⟨u, hu, -, -, humode, hurev, -, hgrew, -⟩ := exec_append_done (i := .lCH 2) t rfl
    rw [hrev, Option.getD_none] at htmode
    rw [htrev, htmode] at humode
    exact ⟨t, u, ht, htmode, htrev, hu, hgrew, humode, hurev⟩
  · obtain ⟨t, ht, htmode, htlatched, htrev, -⟩ := exec_shift_mode (i := .uPS) s rfl
    obtain ⟨u, hu, -, hulatched, humode, hurev, -, hgrew, -⟩ := exec_append_done (i := .pCR) t rfl
    rw [hrev, Option.getD_none] at htmode
    rw [hmode] at htrev
    rw [htrev, Option.getD_some] at humode
    exact ⟨t, u, ht, htmode, htlatched, htrev, hu, hgrew, hulatched, humode, hurev⟩
  · obtain ⟨m, ha⟩ := exists_shift_of_isShift hi
    obtain ⟨t, ht, -, -, htrev, -⟩ := exec_shift_mode s ha
    obtain ⟨u, hu, humode, -, hurev⟩ := exec_under_revert hj hf htrev
    exact ⟨t, u, ht, hu, humode, fun hshift => by rw [hurev, hshift]; rfl⟩

/-- A latch read under a shift has no effect (R125). -/
theorem latch_under_shift {i j : Instr} {p q : Mode} (s : State) (hi : symbolAction i = some (.shift p))
    (hj : symbolAction j = some (.latch q)) :
    ∃ t u, exec i s = .next t ∧ exec j t = .next u ∧ u.md.mode = s.md.mode ∧ u.md.revert = none ∧ u.md.outLen = s.md.outLen := by
  obtain ⟨t, ht, -, -, htrev, htlen⟩ := exec_shift_mode s hi
  obtain ⟨u, hu, -, -, humode, hurev, -, ⟨hulen, -⟩, -⟩ := exec_latch_done t hj
  rw [htrev, Option.getD_some] at humode
  exact ⟨t, u, ht, hu, humode, hurev, hulen.trans htlen⟩

/-- A shift read under a shift to `p` brings `p` back after the symbol that follows (R125). -/
theorem shift_under_shift {i j k : Instr} {p q : Mode} (s : State) (hi : symbolAction i = some (.shift p))
    (hj : symbolAction j = some (.shift q)) (hrev : s.md.revert = none) (hk : isSymbol k) (hf : isFailing k = false) :
    ∃ t u x, exec i s = .next t ∧ t.md.mode = p ∧ exec j t = .next u ∧ u.md.mode = s.md.mode ∧ u.md.revert = some p ∧
      exec k u = .next x ∧ x.md.mode = p ∧ (isShift k = false → x.md.revert = none) := by
  obtain ⟨t, ht, htmode, -, htrev, -⟩ := exec_shift_mode s hi
  obtain ⟨u, hu, humode, -, hurev, -⟩ := exec_shift_mode t hj
  rw [hrev, Option.getD_none] at htmode
  rw [htrev, Option.getD_some] at humode
  rw [htmode] at hurev
  obtain ⟨x, hx, hxmode, -, hxrev⟩ := exec_under_revert hk hf hurev
  exact ⟨t, u, x, ht, htmode, hu, humode, hurev, hx, hxmode, fun hshift => by rw [hxrev, hshift]; rfl⟩

/-- Settles O26: the pairs of R125 are latches under a shift and shifts under a shift to UPPER. -/
theorem shiftedSymbolCannotChangeMode : Obligations.ShiftedSymbolCannotChangeMode := by
  refine ⟨fun s i j hpair => ?_, fun s i j k hi hj hrev hk hf => ?_, fun j => isShift_of_ctx_punct⟩
  · rcases hpair with ⟨rfl, rfl⟩ | ⟨rfl | rfl, rfl | rfl | rfl⟩ <;> exact latch_under_shift s rfl rfl
  · rcases hi with rfl | rfl <;> rcases hj with rfl | rfl <;> exact shift_under_shift s rfl rfl hrev hk hf

end Sys2Proof.Machine
end

section
/-! SUPPORT. The entries of the UPPER table (spec/43_mode_upper.md R130 to R136; O9). -/

namespace Sys2Proof.Machine

/-- A symbol's value moved up by an offset is the character of the sum, the form of the tables' character formulas (R68). -/
theorem setWidth_add_ofNat {n : Nat} (v : BitVec n) (k : Nat) :
    v.setWidth charw + BitVec.ofNat charw k = BitVec.ofNat charw (v.toNat + k) := by
  rw [BitVec.ofNat_add, BitVec.ofNat_toNat]

/-- The two forms of R132, `char('A' + (v - 2))` and `char(v + 63)`, agree. -/
theorem charUpper_eq_ofNat {v : BitVec 5} (hv : 2 ≤ v.toNat) : charUpper v = BitVec.ofNat 8 (65 + (v.toNat - 2)) := by
  have hsum : v.toNat + 63 = 65 + (v.toNat - 2) := by omega
  rw [← hsum]
  exact setWidth_add_ofNat v 63

/-- Settles O9: each entry's dispatch result, run as the symbol's meaning. -/
theorem upperEntriesComplete : Obligations.UpperEntriesComplete := by
  intro s
  refine ⟨?ps, ?sp, fun v hv _ => ?ch, ?ll, ?ml, ?dl, ?bs⟩
  case ps => exact exec_shift_done s rfl
  case sp => exact exec_append_done (c2 := none) s rfl
  case ch =>
    rw [← charUpper_eq_ofNat hv]
    exact exec_append_done (c2 := none) s rfl
  case ll => exact exec_latch_done s rfl
  case ml => exact exec_latch_done s rfl
  case dl => exact exec_latch_done s rfl
  case bs => exact exec_shift_done s rfl

end Sys2Proof.Machine
end

section
/-! SUPPORT. The entries of the LOWER table (spec/44_mode_lower.md R140 to R146; O10). -/

namespace Sys2Proof.Machine

/-- The two forms of R142, `char('a' + (v - 2))` and `char(v + 95)`, agree. -/
theorem charLower_eq_ofNat {v : BitVec 5} (hv : 2 ≤ v.toNat) : charLower v = BitVec.ofNat 8 (97 + (v.toNat - 2)) := by
  have hsum : v.toNat + 95 = 97 + (v.toNat - 2) := by omega
  rw [← hsum]
  exact setWidth_add_ofNat v 95

/-- Settles O10: each entry's dispatch result is an append of one character, a latch or a shift, run as the symbol's meaning. -/
theorem lowerEntriesComplete : Obligations.LowerEntriesComplete := by
  intro s
  refine ⟨?ps, ?sp, fun v hv _ => ?ch, ?us, ?ml, ?dl, ?bs⟩
  case ps => exact exec_shift_done s rfl
  case sp => exact exec_append_done (c2 := none) s rfl
  case ch =>
    rw [← charLower_eq_ofNat hv]
    exact exec_append_done (c2 := none) s rfl
  case us => exact exec_shift_done s rfl
  case ml => exact exec_latch_done s rfl
  case dl => exact exec_latch_done s rfl
  case bs => exact exec_shift_done s rfl

end Sys2Proof.Machine
end

section
/-! SUPPORT. The entries of the MIXED table (spec/45_mode_mixed.md R150 to R163; O11). -/

namespace Sys2Proof.Machine

/-- The formula of R152, `char(v - 1)`, does not wrap on the values of `M.C1`. -/
theorem charCtrl1_eq_ofNat {v : BitVec 5} (hv : 2 ≤ v.toNat) : charCtrl1 v = BitVec.ofNat 8 (v.toNat - 1) := by
  have hone : 1 ≤ v.toNat := by omega
  rw [charCtrl1, ← BitVec.ofNat_toNat]
  exact BitVec.ofNat_sub_ofNat_of_le v.toNat 1 (by decide) hone

/-- The formula of R153 with its normative offset, `char(v + 8)`. -/
theorem charCtrl2_eq_ofNat (v : BitVec 5) : charCtrl2 v = BitVec.ofNat 8 (v.toNat + 8) :=
  setWidth_add_ofNat v Config.mixedCtrl2Offset

/-- The formula of R156, `char(v + 72)`. -/
theorem charMixed3_eq_ofNat (v : BitVec 5) : charMixed3 v = BitVec.ofNat 8 (v.toNat + 72) :=
  setWidth_add_ofNat v 72

/-- Settles O11: each entry's dispatch result is an append of one character, a latch or a shift, run as the symbol's meaning. -/
theorem mixedEntriesComplete : Obligations.MixedEntriesComplete := by
  intro s
  refine ⟨?ps, ?sp, fun v hv _ => ?c1, fun v _ _ => ?c2, ?atSign, ?bsl, fun v _ _ => ?g3, ?bar, ?til, ?del, ?ll, ?ul, ?pl, ?bs⟩
  case ps => exact exec_shift_done s rfl
  case sp => exact exec_append_done (c2 := none) s rfl
  case c1 =>
    rw [← charCtrl1_eq_ofNat hv]
    exact exec_append_done (c2 := none) s rfl
  case c2 =>
    rw [← charCtrl2_eq_ofNat]
    exact exec_append_done (c2 := none) s rfl
  case atSign => exact exec_append_done (c2 := none) s rfl
  case bsl => exact exec_append_done (c2 := none) s rfl
  case g3 =>
    rw [← charMixed3_eq_ofNat]
    exact exec_append_done (c2 := none) s rfl
  case bar => exact exec_append_done (c2 := none) s rfl
  case til => exact exec_append_done (c2 := none) s rfl
  case del => exact exec_append_done (c2 := none) s rfl
  case ll => exact exec_latch_done s rfl
  case ul => exact exec_latch_done s rfl
  case pl => exact exec_latch_done s rfl
  case bs => exact exec_shift_done s rfl

end Sys2Proof.Machine
end

section
/-! SUPPORT. The entries of the PUNCT table but `P.FLG` (spec/46_mode_punct.md R171 to R182; O12). -/

namespace Sys2Proof.Machine

/-- The formula of R176, `char(v + 27)`. -/
theorem charPunct1_eq_ofNat (v : BitVec 5) : charPunct1 v = BitVec.ofNat 8 (v.toNat + 27) :=
  setWidth_add_ofNat v 27

/-- The formula of R177, `char(v + 37)`. -/
theorem charPunct2_eq_ofNat (v : BitVec 5) : charPunct2 v = BitVec.ofNat 8 (v.toNat + 37) :=
  setWidth_add_ofNat v 37

/-- Settles O12: each entry's dispatch result is an append of one or two characters or the latch to UPPER, run as the symbol's
meaning. -/
theorem punctEntriesComplete : Obligations.PunctEntriesComplete := by
  intro s
  refine ⟨?cr, ?crlf, ?dotsp, ?comsp, ?colsp, fun v _ _ => ?g1, fun v _ _ => ?g2, ?lbr, ?rbr, ?lcb, ?rcb, ?ul⟩
  case cr => exact exec_append_done (c2 := none) s rfl
  case crlf => exact exec_append_done (c2 := some 10) s rfl
  case dotsp => exact exec_append_done (c2 := some 32) s rfl
  case comsp => exact exec_append_done (c2 := some 32) s rfl
  case colsp => exact exec_append_done (c2 := some 32) s rfl
  case g1 =>
    rw [← charPunct1_eq_ofNat]
    exact exec_append_done (c2 := none) s rfl
  case g2 =>
    rw [← charPunct2_eq_ofNat]
    exact exec_append_done (c2 := none) s rfl
  case lbr => exact exec_append_done (c2 := none) s rfl
  case rbr => exact exec_append_done (c2 := none) s rfl
  case lcb => exact exec_append_done (c2 := none) s rfl
  case rcb => exact exec_append_done (c2 := none) s rfl
  case ul => exact exec_latch_done s rfl

end Sys2Proof.Machine
end

section
/-! SUPPORT. Runs under a silent host: what every run keeps, and what stage 3 keeps of the correction (spec/20_memory.md R53). -/

namespace Sys2Proof.Machine

variable {s t : State} {n : Nat}

/-! ### Runs -/

theorem exists_step_of_runFor_succ (h : runFor (n + 1) s = .next t) : ∃ u, step s = .next u ∧ runFor n u = .next t := by
  cases hs : step s with
  | next u => exact ⟨u, rfl, by rwa [runFor_succ hs] at h⟩
  | fault r =>
    have hcore : Sys2Proof.core.step s = .fault r := hs
    simp [runFor, Host.Core.run, hcore] at h
  | refused r =>
    have hcore : Sys2Proof.core.step s = .refused r := hs
    simp [runFor, Host.Core.run, hcore] at h

/-- What every step keeps, every run keeps. -/
theorem runFor_keeps {P : State → Prop} (hkeeps : ∀ u v, P u → step u = .next v → P v) (hs : P s) (h : runFor n s = .next t) : P t := by
  induction n generalizing s with
  | zero => cases h; exact hs
  | succ n ih =>
    obtain ⟨u, hstep, hrun⟩ := exists_step_of_runFor_succ h
    exact ih (hkeeps s u hs hstep) hrun

theorem hostSilent_of_runFor (hsilent : s.hostSilent) (h : runFor n s = .next t) : t.hostSilent :=
  runFor_keeps (fun _ _ => hostSilent_of_step) hsilent h

/-- While the host is silent, the parameters, the descriptor and RAW stay as they are. -/
theorem hostSideKept_of_runFor (hsilent : s.hostSilent) (h : runFor n s = .next t) : s.hostSideKept t := by
  have hkeeps : ∀ u v, u.hostSilent ∧ s.hostSideKept u → step u = .next v → v.hostSilent ∧ s.hostSideKept v := by
    rintro u v ⟨hu, hparams, hdesc, hraw⟩ hstep
    have hv := hostSilent_of_step hu hstep
    rw [step_of_silent hu] at hstep
    obtain ⟨hparams', hdesc', hraw'⟩ := blockStep_hostSideKept hstep
    exact ⟨hv, hparams'.trans hparams, hdesc'.trans hdesc, hraw'.trans hraw⟩
  exact (runFor_keeps hkeeps ⟨hsilent, rfl, rfl, rfl⟩ h).2

/-! ### Stage 3 keeps the correction's outcome -/

/-- COR with the values of its unwritten bits, `COR_LEN` and `TOTAL_ERRS` are as before. -/
def State.correctionKept (s t : State) : Prop :=
  t.cor = s.cor ∧ t.epoch = s.epoch ∧ t.results.corLen = s.results.corLen ∧ t.results.totalErrs = s.results.totalErrs

theorem State.correctionKept.trans {u : State} (hst : s.correctionKept t) (htu : t.correctionKept u) : s.correctionKept u := by
  obtain ⟨hcor, hepoch, hlen, herrs⟩ := hst
  obtain ⟨hcor', hepoch', hlen', herrs'⟩ := htu
  exact ⟨hcor'.trans hcor, hepoch'.trans hepoch, hlen'.trans hlen, herrs'.trans herrs⟩

theorem corBits_of_correctionKept (h : s.correctionKept t) : t.corBits = s.corBits := by
  obtain ⟨hcor, hepoch, hlen, -⟩ := h
  have hbit : t.corBit = s.corBit := by funext i; simp [State.corBit, hcor, hepoch]
  rw [State.corBits, hbit, hlen, State.corBits]

/-- A turn of a silent block's loop keeps the correction's outcome. It ends the decode exactly when the small step does not go on, and
otherwise moves the automaton by it (R128). -/
theorem step_loopTurn (hsilent : s.hostSilent) (hq : s.seq = .mode) :
    ∃ t, step s = .next t ∧ s.correctionKept t ∧
      (t.seq = .idle ∧ (∀ a, autoStep s.params.byteWidth s.dstBits s.auto ≠ .next a) ∨
        t.seq = .mode ∧ t.params = s.params ∧ t.dstBits = s.dstBits ∧
          autoStep s.params.byteWidth s.dstBits s.auto = .next t.auto) := by
  obtain ⟨t, hstep, hturn⟩ := step_turnLeaves (hostWaits_of_silent hsilent) hq
  rw [tick_of_silent hsilent] at hturn
  refine ⟨t, hstep, ?_⟩
  cases hanswer : autoStep s.params.byteWidth s.dstBits s.auto with
  | done =>
    rw [hanswer] at hturn
    obtain rfl : t = finish s := hturn
    exact ⟨⟨rfl, rfl, rfl, rfl⟩, .inl ⟨rfl, by simp⟩⟩
  | failed c =>
    rw [hanswer] at hturn
    obtain rfl : t = raiseFail c (beginSymbol (fetchSymbol s)) := hturn
    exact ⟨⟨rfl, rfl, rfl, rfl⟩, .inl ⟨rfl, by simp⟩⟩
  | next a =>
    rw [hanswer] at hturn
    obtain ⟨rfl, v, m, shifted, cs, hdone⟩ := hturn
    obtain ⟨hparams, hresults, -, hseq⟩ := turnFrame_of_symbolDone hdone
    obtain ⟨-, -, hcor, -, hepoch⟩ := bitBuffersKept_of_symbolDone hdone
    exact ⟨⟨hcor, hepoch, by rw [hresults], by rw [hresults]⟩,
      .inr ⟨hseq.trans hq, hparams, dstBits_of_symbolDone hdone, rfl⟩⟩

theorem step_modeInit_silent (hsilent : s.hostSilent) (hq : s.seq = .modeInit) : step s = .next (resetTransient s) := by
  rw [step_modeInit (hostWaits_of_silent hsilent) hq, tick_of_silent hsilent]

theorem step_idle_silent (hsilent : s.hostSilent) (hq : s.seq = .idle) : step s = .next s := by
  rw [step_of_silent hsilent, blockStep_idle hq]

/-- The host is silent, and the block in stage 3 or past its end. -/
def State.inStageThree (s : State) : Prop := s.hostSilent ∧ (s.seq = .modeInit ∨ s.seq = .mode ∨ s.seq = .idle)

theorem correctionKept_of_runFor (hsilent : s.hostSilent) (hq : s.seq = .modeInit) (h : runFor n s = .next t) :
    s.correctionKept t := by
  have hkeeps : ∀ u v, u.inStageThree ∧ s.correctionKept u → step u = .next v → v.inStageThree ∧ s.correctionKept v := by
    rintro u v ⟨⟨hu, hplace⟩, hkept⟩ hstep
    have hv := hostSilent_of_step hu hstep
    rcases hplace with hu' | hu' | hu'
    · rw [step_modeInit_silent hu hu'] at hstep
      cases hstep
      exact ⟨⟨hv, .inr (.inl rfl)⟩, hkept.trans ⟨rfl, rfl, rfl, rfl⟩⟩
    · obtain ⟨v', hstep', hturn, hplace⟩ := step_loopTurn hu hu'
      rw [hstep] at hstep'
      cases hstep'
      exact ⟨⟨hv, .inr (hplace.symm.imp And.left And.left)⟩, hkept.trans hturn⟩
    · rw [step_idle_silent hu hu'] at hstep
      cases hstep
      exact ⟨⟨hv, .inr (.inr hu')⟩, hkept⟩
  exact (runFor_keeps hkeeps ⟨⟨hsilent, .inl hq⟩, rfl, rfl, rfl, rfl⟩ h).2

end Sys2Proof.Machine
end

section
/-! SUPPORT. Stage 1 as one answer of the corrector (spec/40_word_splitter_ecc.md R82, R84, R92): the machine's request is that of `Correct`,
and REPACK leaves its answer's bits in COR. -/

namespace Sys2Proof.Machine

variable {s : State} {w : EccWidth} {n : Nat}

/-- The corrector's answer for the words of the raw bits (R92). -/
def rawAnswer (lenw : Nat) (w : EccWidth) (m n : Nat) (raw : Nat → Bool) : RsAnswer lenw w m :=
  Config.rs lenw w (gfConst w) (fun i : Fin m => rawEccWord w raw i.val) (fun j : Fin (n - m) => rawEccWord w raw (m + j.val))

/-- The corrected words as bits, in order, each most significant bit first (R41, R89). -/
def wordBits {m : Nat} (data : Fin m → BitVec w.bits) : List Bool := (List.ofFn data).flatMap fun x => toBits w.bits x.toNat

theorem correctBits_of_ok {lenw m : Nat} {raw : Nat → Bool} {data : Fin m → BitVec w.bits} {count : BitVec lenw}
    (h : rawAnswer lenw w m n raw = .ok data count) : correctBits lenw w m n raw = some (wordBits data, count.toNat) := by
  rw [rawAnswer] at h
  simp only [correctBits, h, wordBits]

theorem correctBits_of_uncorrectable {lenw m : Nat} {raw : Nat → Bool} (h : rawAnswer lenw w m n raw = .uncorrectable) :
    correctBits lenw w m n raw = none := by
  rw [rawAnswer] at h
  simp only [correctBits, h]

theorem rawAnswer_of_correctBits_some {lenw m count : Nat} {raw : Nat → Bool} {cor : List Bool}
    (h : correctBits lenw w m n raw = some (cor, count)) :
    ∃ data c, rawAnswer lenw w m n raw = .ok data c ∧ wordBits data = cor ∧ c.toNat = count := by
  cases hanswer : rawAnswer lenw w m n raw with
  | ok data c =>
    rw [correctBits_of_ok hanswer] at h
    cases h
    exact ⟨data, c, rfl, rfl, rfl⟩
  | uncorrectable =>
    rw [correctBits_of_uncorrectable hanswer] at h
    cases h

theorem rawAnswer_of_correctBits_none {lenw m : Nat} {raw : Nat → Bool} (h : correctBits lenw w m n raw = none) :
    rawAnswer lenw w m n raw = .uncorrectable := by
  cases hanswer : rawAnswer lenw w m n raw with
  | ok data c =>
    rw [correctBits_of_ok hanswer] at h
    cases h
  | uncorrectable => rfl

theorem wordBits_length {m : Nat} (data : Fin m → BitVec w.bits) : (wordBits data).length = m * w.bits := by
  simp [wordBits, List.length_flatMap, Function.comp_def]

/-- A bit buffer of `m` words is the words one after another (R46). -/
theorem readBits_words (get : Nat → Bool) (w : EccWidth) (m : Nat) :
    readBits get 0 (m * w.bits) = (List.ofFn fun i : Fin m => readBits get (i.val * w.bits) w.bits).flatten := by
  induction m with
  | zero => simp [readBits]
  | succ m ih =>
    rw [Nat.succ_mul, readBits_append, ih, List.ofFn_succ_last]
    simp

/-- The request that follows SPLIT is that for the raw bits (R45, R82, R84). -/
theorem rsAnswer_splitStage (hwords : s.desc.msgWords ≤ s.desc.capWords) :
    rsAnswer w (splitStage w s) = rawAnswer s.params.lenw w s.desc.msgWords s.desc.capWords s.rawBit := by
  have hword : ∀ i, i < s.desc.capWords → ((splitStage w s).dwWord i).setWidth w.bits = rawEccWord w s.rawBit i := by
    intro i hi
    refine BitVec.eq_of_toNat_eq ?_
    rw [splitStage_setWidth_dwWord hi, rawEccWord, BitVec.toNat_ofNat, Nat.mod_eq_of_lt (memRead_lt _ _ _), State.rawWord]
  have hdata : rsData w (splitStage w s) = fun i => rawEccWord w s.rawBit i.val :=
    funext fun i => hword _ (i.isLt.trans_le hwords)
  have hparity : rsParity w (splitStage w s) = fun j => rawEccWord w s.rawBit (s.desc.msgWords + j.val) := by
    funext j
    have hj : j.val < s.desc.capWords - s.desc.msgWords := j.isLt
    have hlt : s.desc.msgWords + j.val < s.desc.capWords := by omega
    exact hword _ hlt
  exact congrArg₂ (Config.rs s.params.lenw w (gfConst w)) hdata hparity

/-- REPACK after a successful correction leaves the corrected words' bits in COR (R46, R89). -/
theorem corBits_repackStage {lenw : Nat} {data : Fin s.desc.msgWords → BitVec w.bits} {count : BitVec lenw} :
    (repackStage w (takeAnswer (.ok data count) s)).corBits = wordBits data := by
  have hword : ∀ i : Fin s.desc.msgWords, readBits (repackStage w (takeAnswer (.ok data count) s)).corBit (i.val * w.bits) w.bits =
      toBits w.bits (data i).toNat := by
    intro i
    rw [← takeAnswer_ok_dwWord (s := s) (count := count) i]
    exact readBits_eq_toBits fun k hk => repackStage_corBit_word (s := takeAnswer (.ok data count) s) i.isLt hk
  have hlen : (repackStage w (takeAnswer (.ok data count) s)).results.corLen = s.desc.msgWords * w.bits := rfl
  rw [State.corBits, hlen, readBits_words, wordBits, List.flatMap_def, List.map_ofFn]
  exact congrArg (fun f => (List.ofFn f).flatten) (funext hword)

end Sys2Proof.Machine
end

section
/-! SUPPORT. The whole decode (spec/49_decode_driver.md R211, R220): from the checks to stage 3, and the end that the function `Decode`
describes (O54). -/

namespace Sys2Proof.Machine

variable {s t : State} {w : EccWidth} {n : Nat}

/-! ### From the checks to stage 3 (R211) -/

theorem step_checks (hwait : s.hostWaits) (hq : s.seq = .checks) : step s = .next (runChecks s.tick) := by
  rw [step_of_waits hwait, blockStep_checks (by rw [tick_seq, hq])]

/-- All checks have passed: stage 1 begins (R211, R213). -/
def beginStageOne (s : State) : State := { s with status := s.status.atStage 1, seq := .split }

/-- A decode begins: the host silent, the block before its checks, `STATUS` as a START leaves it (R212). -/
def State.startsDecode (s : State) : Prop := s.hostSilent ∧ s.seq = .checks ∧ s.statusCoherent

/-- The descriptor passes the checks, and its words have width `w` (R213). -/
def Descriptor.passes (d : Descriptor) (p : Params) (w : EccWidth) : Prop :=
  firstViolation p d = none ∧ d.wordBits.toNat = w.bits

theorem exists_passes {p : Params} {d : Descriptor} (hv : firstViolation p d = none) : ∃ w, d.passes p w := by
  obtain ⟨hlegal, -⟩ := firstViolation_eq_none_iff.mp hv
  obtain ⟨w, hw⟩ := Option.ne_none_iff_exists'.mp hlegal
  exact ⟨w, hv, eq_bits_of_ofBits? hw⟩

theorem msgWords_le_capWords {p : Params} {d : Descriptor} (h : d.passes p w) : d.msgWords ≤ d.capWords := by
  obtain ⟨hv, -⟩ := h
  obtain ⟨-, -, -, hwords, -⟩ := firstViolation_eq_none_iff.mp hv
  exact hwords

theorem status_of_startsDecode (h : s.startsDecode) : s.status = Seq.checks.runningStatus s.status.msgValid := by
  obtain ⟨-, hq, hcoherent⟩ := h
  rw [← hq]
  exact (statusCoherent_iff_of_running (by simp [hq])).mp hcoherent

theorem step_violation {c : Cause} (h : s.startsDecode) (hv : firstViolation s.params s.desc = some c) :
    step s = .next (raiseFatal c s) := by
  obtain ⟨hsilent, hq, -⟩ := h
  rw [step_checks (hostWaits_of_silent hsilent) hq, tick_of_silent hsilent, runChecks_of_violation hv]

/-- The checks and SPLIT, with the corrector's answer next. -/
theorem runFor_split (h : s.startsDecode) (hpass : s.desc.passes s.params w) :
    runFor 2 s = .next (splitStage w (beginStageOne s)) := by
  obtain ⟨hsilent, hq, -⟩ := h
  obtain ⟨hv, hw⟩ := hpass
  have hchecks : step s = .next (beginStageOne s) := by
    rw [step_checks (hostWaits_of_silent hsilent) hq, tick_of_silent hsilent, runChecks_of_pass hv, beginStageOne]
  have hsilent' : (beginStageOne s).hostSilent := hsilent
  have hsplit := step_split (s := beginStageOne s) (hostWaits_of_silent hsilent') rfl hw
  rw [tick_of_silent hsilent'] at hsplit
  rw [runFor_succ hchecks, runFor_succ hsplit, runFor_zero]

theorem step_answer (h : s.startsDecode) (hpass : s.desc.passes s.params w) :
    step (splitStage w (beginStageOne s)) =
      .next (takeAnswer (rawAnswer s.params.lenw w s.desc.msgWords s.desc.capWords s.rawBit) (splitStage w (beginStageOne s))) := by
  have hwords := msgWords_le_capWords hpass
  obtain ⟨hsilent, -⟩ := h
  obtain ⟨-, hw⟩ := hpass
  have hsilent' : (splitStage w (beginStageOne s)).hostSilent := hsilent
  have hcorrect := step_correct (s := splitStage w (beginStageOne s)) (hostWaits_of_silent hsilent') rfl hw
  rw [tick_of_silent hsilent', rsAnswer_splitStage (s := beginStageOne s) hwords] at hcorrect
  exact hcorrect

/-- The correction of the raw bits that this decode asks for (R92). -/
def State.corrected (s : State) (w : EccWidth) : Option (List Bool × Nat) :=
  correctBits s.params.lenw w s.desc.msgWords s.desc.capWords s.rawBit

theorem corrected_length {cor : List Bool} {count : Nat} (h : s.corrected w = some (cor, count)) :
    cor.length = s.desc.msgWords * w.bits := by
  obtain ⟨data, c, -, rfl, -⟩ := rawAnswer_of_correctBits_some h
  exact wordBits_length data

theorem step_uncorrectable (h : s.startsDecode) (hpass : s.desc.passes s.params w) (hcor : s.corrected w = none) :
    step (splitStage w (beginStageOne s)) = .next (raiseFail .eccUncorrectable (splitStage w (beginStageOne s))) := by
  rw [step_answer h hpass, rawAnswer_of_correctBits_none hcor]
  rfl

/-- Stage 3 begins at `t`, in a decode that began at `s`: COR and `TOTAL_ERRS` hold the correction's outcome and DST what the stripper
makes of it. -/
def State.entersStageThree (s t : State) (w : EccWidth) (cor : List Bool) (count : Nat) : Prop :=
  t.seq = .modeInit ∧ t.status = Seq.modeInit.runningStatus s.status.msgValid ∧ s.messageKept t ∧ t.corHolds cor count ∧
    stripPadding w cor = .ok t.dstBits

/-- REPACK and the stripper's run, one step for each data word and three more. -/
theorem runFor_repack (hsilent : s.hostSilent) (hq : s.seq = .repack) (hw : s.desc.wordBits.toNat = w.bits) :
    ∃ t, runFor (s.desc.msgWords + 3) s = .next t ∧ stripPadding w (repackStage w s).corBits = .ok t.dstBits ∧
      t = { repackStage w s with
        dst := t.dst
        dstLen := t.dstLen
        stripPos := t.stripPos
        status := { s.status.corrected with stage := 3 }
        seq := .modeInit } := by
  have hrepack : step s = .next (repackStage w s) := by
    rw [step_repack (hostWaits_of_silent hsilent) hq hw, tick_of_silent hsilent]
  have hlen : (repackStage w s).results.corLen = s.desc.msgWords * w.bits := rfl
  obtain ⟨t, hrun, hdst, ht⟩ := stripperRunIsStripPadding (repackStage w s) w hsilent rfl hw (by rw [hlen, Nat.mul_mod_left])
  rw [hlen, Nat.mul_div_cancel _ (bits_pos w)] at hrun
  exact ⟨t, by rw [runFor_succ hrepack, hrun], hdst, ht⟩

/-- After a successful correction the decode comes to stage 3, one step for each data word and six more after its start. -/
theorem runFor_entersStageThree {cor : List Bool} {count : Nat} (h : s.startsDecode) (hpass : s.desc.passes s.params w)
    (hcor : s.corrected w = some (cor, count)) :
    ∃ t, runFor (s.desc.msgWords + 6) s = .next t ∧ s.entersStageThree t w cor count := by
  obtain ⟨data, count, hanswer, rfl, rfl⟩ := rawAnswer_of_correctBits_some hcor
  have hsplit := runFor_split h hpass
  have hcorrect := step_answer h hpass
  have hstatus := status_of_startsDecode h
  obtain ⟨hsilent, -⟩ := h
  obtain ⟨-, hw⟩ := hpass
  rw [hanswer] at hcorrect
  have hwords := corBits_repackStage (s := splitStage w (beginStageOne s)) (data := data) (count := count)
  obtain ⟨t, hrun, hdst, ht⟩ := runFor_repack (s := takeAnswer (.ok data count) (splitStage w (beginStageOne s))) hsilent rfl hw
  have hdst' : stripPadding w (wordBits data) = .ok t.dstBits := (congrArg (stripPadding w) hwords).symm.trans hdst
  have hst : t.status = Seq.modeInit.runningStatus s.status.msgValid := by
    rw [ht]
    change ({ (s.status.atStage 1).corrected with stage := 3 } : Status) = _
    rw [hstatus]
    rfl
  have hbits : t.corBits = wordBits data := by rw [ht]; exact hwords
  have hlen : t.results.corLen = (wordBits data).length := by rw [ht, wordBits_length]; rfl
  refine ⟨t, ?_, by rw [ht], hst, by rw [ht]; exact ⟨rfl, rfl, rfl⟩, ⟨hbits, hlen, by rw [ht]; rfl, by rw [hst]; rfl⟩, hdst'⟩
  rw [show s.desc.msgWords + 6 = 2 + (s.desc.msgWords + 3 + 1) by omega, runFor_add hsplit, runFor_succ hcorrect]
  exact hrun

/-! ### Stage 3 and the function `Decode` (R220) -/

/-- The result of a decode whose stage 3 gives a text or a failure (R220). -/
def textResult (cor : List Bool) (count : Nat) : Except Cause (List Char8) → DecodeResult
  | .error c => .failure c cor count
  | .ok text => .success text cor count

theorem decodeMarker_of_violation {p : Params} {d : Descriptor} {c : Cause} (raw : Nat → Bool) (hv : firstViolation p d = some c) :
    decodeMarker p d raw = .fatal c := by
  simp only [decodeMarker, hv]

theorem decodeMarker_of_uncorrectable {p : Params} {d : Descriptor} {raw : Nat → Bool} (hpass : d.passes p w)
    (hcor : correctBits p.lenw w d.msgWords d.capWords raw = none) : decodeMarker p d raw = .uncorrectable := by
  obtain ⟨hv, hw⟩ := hpass
  simp only [decodeMarker, hv, hw, ofBits?_bits, hcor]

theorem decodeMarker_of_corrected {p : Params} {d : Descriptor} {raw : Nat → Bool} {cor dst : List Bool} {count : Nat}
    (hpass : d.passes p w) (hcor : correctBits p.lenw w d.msgWords d.capWords raw = some (cor, count))
    (hdst : stripPadding w cor = .ok dst) : decodeMarker p d raw = textResult cor count (modeDecode p.byteWidth dst) := by
  obtain ⟨hv, hw⟩ := hpass
  simp only [decodeMarker, hv, hw, ofBits?_bits, hcor, hdst]
  cases modeDecode p.byteWidth dst <;> rfl

/-- `t` is the end of a decode that began at `s`, with the result that `Decode` gives. -/
def State.decodeEndsAt (s t : State) : Prop :=
  t.seq = .idle ∧ t.status.busy = false ∧ t.status.done = true ∧ s.endsWith t (decodeMarker s.params s.desc s.rawBit)

theorem corHolds_of_correctionKept {cor : List Bool} {count : Nat} (hkept : s.correctionKept t)
    (hvalid : t.status.corValid = s.status.corValid) (h : s.corHolds cor count) : t.corHolds cor count := by
  obtain ⟨hbits, hlen, herrs, hcorValid⟩ := h
  have hsame := corBits_of_correctionKept hkept
  obtain ⟨-, -, hlen', herrs'⟩ := hkept
  exact ⟨hsame.trans hbits, hlen'.trans hlen, herrs'.trans herrs, hvalid.trans hcorValid⟩

/-- From the beginning of stage 3 the decode ends with what the Mode Decoder makes of DST. -/
theorem runFor_stageThree {u : State} {cor : List Bool} {count : Nat} (hsilent : u.hostSilent)
    (h : s.entersStageThree u w cor count) :
    ∃ n t, n ≤ u.dstLen / 4 + 2 ∧ runFor n u = .next t ∧ t.seq = .idle ∧ t.status.busy = false ∧ t.status.done = true ∧
      s.endsWith t (textResult cor count (modeDecode u.params.byteWidth u.dstBits)) := by
  obtain ⟨hq, hstatus, hmsg, hcor, -⟩ := h
  obtain ⟨n, t, hn, hrun, hidle, hend⟩ := modeDecoderRunIsModeDecode u hsilent hq
  have hkept := correctionKept_of_runFor hsilent hq hrun
  refine ⟨n, t, hn, hrun, hidle, ?_⟩
  cases hresult : modeDecode u.params.byteWidth u.dstBits with
  | ok text =>
    rw [hresult] at hend
    obtain ⟨hst, htext, hlen⟩ := hend
    have hcor' := corHolds_of_correctionKept hkept (by rw [hst]) hcor
    simp [textResult, State.endsWith, hst, hstatus, Seq.runningStatus, htext, hlen, hcor']
  | error c =>
    rw [hresult] at hend
    obtain ⟨hst, hkeptMsg, -⟩ := hend
    have hcor' := corHolds_of_correctionKept hkept (by rw [hst]) hcor
    simp [textResult, State.endsWith, hst, hstatus, Seq.runningStatus, Seq.stage, hmsg.trans hkeptMsg, hcor']

/-- The decode ends within the bound, with the result that `Decode` gives: at the checks, at the correction, or in stage 3. -/
theorem exists_decodeEndsAt (h : s.startsDecode) :
    ∃ n t, n ≤ s.desc.msgWords + s.desc.msgWords * s.desc.wordBits.toNat / 4 + 9 ∧ runFor n s = .next t ∧ s.decodeEndsAt t := by
  have hstatus := status_of_startsDecode h
  have ⟨hsilent, _, _⟩ := h
  cases hv : firstViolation s.params s.desc with
  | some c =>
    refine ⟨1, raiseFatal c s, by omega, by rw [runFor_succ (step_violation h hv), runFor_zero], rfl, rfl, rfl, ?_⟩
    rw [decodeMarker_of_violation _ hv]
    refine ⟨rfl, rfl, rfl, ?_, ?_, ⟨rfl, rfl, rfl⟩, rfl, rfl⟩ <;> rw [raiseFatal_status, hstatus] <;> rfl
  | none =>
    obtain ⟨w, hpass⟩ := exists_passes hv
    have ⟨_, hw⟩ := hpass
    cases hcor : s.corrected w with
    | none =>
      have hfail := step_uncorrectable h hpass hcor
      refine ⟨2 + 1, _, by omega, by rw [runFor_add (runFor_split h hpass), runFor_succ hfail, runFor_zero], rfl, rfl, rfl, ?_⟩
      rw [decodeMarker_of_uncorrectable hpass hcor]
      have hst : (splitStage w (beginStageOne s)).status = s.status.atStage 1 := rfl
      refine ⟨?_, ?_, ?_, ?_, ?_, ⟨rfl, rfl, rfl⟩, rfl, rfl⟩ <;> rw [raiseFail_status, hst, hstatus] <;> rfl
    | some answer =>
      obtain ⟨cor, count⟩ := answer
      obtain ⟨u, hrun, hstage⟩ := runFor_entersStageThree h hpass hcor
      obtain ⟨n, t, hn, hrun', hidle, hbusy, hdone, hend⟩ := runFor_stageThree (hostSilent_of_runFor hsilent hrun) hstage
      obtain ⟨hparams, -⟩ := hostSideKept_of_runFor hsilent hrun
      obtain ⟨-, -, -, -, hdst⟩ := hstage
      obtain ⟨-, -, hdstLen, -⟩ := stripperOutputLength w _ _ hdst
      rw [dstBits_length, corrected_length hcor, ← hw] at hdstLen
      rw [hparams, ← decodeMarker_of_corrected hpass hcor hdst] at hend
      exact ⟨s.desc.msgWords + 6 + n, t, by omega, by rw [runFor_add hrun, hrun'], hidle, hbusy, hdone, hend⟩

/-- Settles O54: the decode ends at the checks, at the correction or in stage 3, each time as `Decode` says, and with a silent host no
step writes the descriptor or RAW. -/
theorem decodeRunIsDecode : Obligations.DecodeRunIsDecode := by
  intro s hsilent hq hcoherent
  obtain ⟨n, t, hn, hrun, hidle, hbusy, hdone, hend⟩ := exists_decodeEndsAt ⟨hsilent, hq, hcoherent⟩
  obtain ⟨-, hdesc, hraw⟩ := hostSideKept_of_runFor hsilent hrun
  exact ⟨n, t, hn, hrun, hidle, hbusy, hdone, hend, hdesc, hraw⟩

end Sys2Proof.Machine
end

section
/-! SUPPORT. Determinism and no leaks (spec/49_decode_driver.md R219, spec/20_memory.md R45): two decodes with the same parameters,
descriptor and split bits of RAW take the same steps to the same result (O55). -/

namespace Sys2Proof.Machine

variable {s s₁ s₂ t t₁ t₂ u₁ u₂ : State} {w : EccWidth} {n : Nat}

/-! ### An idle block stays idle -/

theorem runFor_of_idle (hsilent : s.hostSilent) (hq : s.seq = .idle) (n : Nat) : runFor n s = .next s := by
  induction n with
  | zero => rfl
  | succ n ih => rw [runFor_succ (step_idle_silent hsilent hq), ih]

/-- However long a run goes on after the block has become idle, it ends in that state. -/
theorem eq_of_runFor_idle {k : Nat} (hsilent : s.hostSilent) (h : runFor n s = .next t) (hq : t.seq = .idle)
    (hk : runFor k s = .next u₁) (hle : n ≤ k) : u₁ = t := by
  obtain ⟨d, rfl⟩ := Nat.exists_eq_add_of_le hle
  rw [runFor_add h, runFor_of_idle (hostSilent_of_runFor hsilent h) hq] at hk
  cases hk
  rfl

/-- A block that is still busy was busy at every step before. -/
theorem seq_ne_idle_of_runFor {k : Nat} (hsilent : s.hostSilent) (h : runFor n s = .next t) (hq : t.seq ≠ .idle) (hle : k ≤ n) :
    ∀ u, runFor k s = .next u → u.seq ≠ .idle := by
  intro u hu hidle
  exact hq (eq_of_runFor_idle hsilent hu hidle h hle ▸ hidle)

/-! ### Ending at the same step -/

/-- The two runs come to an idle block at the same step, neither sooner (R219). -/
def State.endsTogether (s₁ s₂ : State) : Prop :=
  ∃ n t₁ t₂, runFor n s₁ = .next t₁ ∧ runFor n s₂ = .next t₂ ∧ t₁.seq = .idle ∧ t₂.seq = .idle ∧
    ∀ k, k < n → (∀ u, runFor k s₁ = .next u → u.seq ≠ .idle) ∧ ∀ u, runFor k s₂ = .next u → u.seq ≠ .idle

theorem endsTogether_of_step (hq₁ : s₁.seq ≠ .idle) (hq₂ : s₂.seq ≠ .idle) (h₁ : step s₁ = .next t₁) (h₂ : step s₂ = .next t₂)
    (hidle₁ : t₁.seq = .idle) (hidle₂ : t₂.seq = .idle) : s₁.endsTogether s₂ := by
  refine ⟨1, t₁, t₂, by rw [runFor_succ h₁, runFor_zero], by rw [runFor_succ h₂, runFor_zero], hidle₁, hidle₂, fun k hk => ?_⟩
  obtain rfl : k = 0 := by omega
  exact ⟨by rintro u ⟨⟩; exact hq₁, by rintro u ⟨⟩; exact hq₂⟩

/-- Two runs that are as long and still busy end together as from where they have come to. -/
theorem endsTogether_of_runFor (hsilent₁ : s₁.hostSilent) (hsilent₂ : s₂.hostSilent) (h₁ : runFor n s₁ = .next u₁)
    (h₂ : runFor n s₂ = .next u₂) (hq₁ : u₁.seq ≠ .idle) (hq₂ : u₂.seq ≠ .idle) (h : u₁.endsTogether u₂) : s₁.endsTogether s₂ := by
  obtain ⟨m, t₁, t₂, hrun₁, hrun₂, hidle₁, hidle₂, hbusy⟩ := h
  refine ⟨n + m, t₁, t₂, by rw [runFor_add h₁, hrun₁], by rw [runFor_add h₂, hrun₂], hidle₁, hidle₂, fun k hk => ?_⟩
  by_cases hle : k ≤ n
  · exact ⟨seq_ne_idle_of_runFor hsilent₁ h₁ hq₁ hle, seq_ne_idle_of_runFor hsilent₂ h₂ hq₂ hle⟩
  · obtain ⟨d, rfl⟩ := Nat.exists_eq_add_of_le (Nat.le_of_not_le hle)
    rw [runFor_add h₁, runFor_add h₂]
    exact hbusy d (by omega)

/-! ### The symbol loop in two blocks -/

/-- Two blocks in the symbol loop whose automata are in the same state on the same symbol stream (R128). -/
def State.sameLoop (s₁ s₂ : State) : Prop :=
  (s₁.hostSilent ∧ s₁.seq = .mode) ∧ (s₂.hostSilent ∧ s₂.seq = .mode) ∧ s₁.params = s₂.params ∧ s₁.dstBits = s₂.dstBits ∧
    s₁.auto = s₂.auto

theorem step_sameLoop (h : s₁.sameLoop s₂) :
    ∃ t₁ t₂, step s₁ = .next t₁ ∧ step s₂ = .next t₂ ∧ (t₁.sameLoop t₂ ∨ t₁.seq = .idle ∧ t₂.seq = .idle) := by
  obtain ⟨⟨hsilent₁, hq₁⟩, ⟨hsilent₂, hq₂⟩, hparams, hdst, hauto⟩ := h
  obtain ⟨t₁, hstep₁, -, hturn₁⟩ := step_loopTurn hsilent₁ hq₁
  obtain ⟨t₂, hstep₂, -, hturn₂⟩ := step_loopTurn hsilent₂ hq₂
  have hs₁ := hostSilent_of_step hsilent₁ hstep₁
  have hs₂ := hostSilent_of_step hsilent₂ hstep₂
  refine ⟨t₁, t₂, hstep₁, hstep₂, ?_⟩
  rw [hparams, hdst, hauto] at hturn₁
  rcases hturn₁ with ⟨hidle₁, hends₁⟩ | ⟨hm₁, hp₁, hd₁, ha₁⟩
  · rcases hturn₂ with ⟨hidle₂, -⟩ | ⟨-, -, -, ha₂⟩
    · exact .inr ⟨hidle₁, hidle₂⟩
    · exact absurd ha₂ (hends₁ _)
  · rcases hturn₂ with ⟨-, hends₂⟩ | ⟨hm₂, hp₂, hd₂, ha₂⟩
    · exact absurd ha₁ (hends₂ _)
    · exact .inl ⟨⟨hs₁, hm₁⟩, ⟨hs₂, hm₂⟩, hp₁.trans hp₂.symm, hd₁.trans hd₂.symm, AutoResult.next.inj (ha₁.symm.trans ha₂)⟩

/-- Two loops on the same stream end together: by induction on a run that takes the first to its end. -/
theorem endsTogether_of_sameLoop (h : s₁.sameLoop s₂) (hrun : runFor n s₁ = .next t) (hidle : t.seq = .idle) :
    s₁.endsTogether s₂ := by
  induction n generalizing s₁ s₂ with
  | zero =>
    obtain ⟨⟨-, hq₁⟩, -⟩ := h
    cases hrun
    exact absurd (hq₁.symm.trans hidle) (by simp)
  | succ n ih =>
    have ⟨⟨hsilent₁, hq₁⟩, ⟨hsilent₂, hq₂⟩, _⟩ := h
    obtain ⟨u₁, u₂, hstep₁, hstep₂, hloop | ⟨hidle₁, hidle₂⟩⟩ := step_sameLoop h
    · rw [runFor_succ hstep₁] at hrun
      have ⟨⟨_, hm₁⟩, ⟨_, hm₂⟩, _⟩ := hloop
      exact endsTogether_of_runFor hsilent₁ hsilent₂ (n := 1) (by rw [runFor_succ hstep₁, runFor_zero])
        (by rw [runFor_succ hstep₂, runFor_zero]) (by simp [hm₁]) (by simp [hm₂]) (ih hloop hrun)
    · exact endsTogether_of_step (by simp [hq₁]) (by simp [hq₂]) hstep₁ hstep₂ hidle₁ hidle₂

theorem endsTogether_of_modeInit (hsilent₁ : s₁.hostSilent) (hsilent₂ : s₂.hostSilent) (hq₁ : s₁.seq = .modeInit)
    (hq₂ : s₂.seq = .modeInit) (hparams : s₁.params = s₂.params) (hdst : s₁.dstBits = s₂.dstBits) : s₁.endsTogether s₂ := by
  have hstep₁ := step_modeInit_silent hsilent₁ hq₁
  have hstep₂ := step_modeInit_silent hsilent₂ hq₂
  have hloop : (resetTransient s₁).sameLoop (resetTransient s₂) :=
    ⟨⟨hsilent₁, rfl⟩, ⟨hsilent₂, rfl⟩, hparams, hdst, by rw [auto_resetTransient, auto_resetTransient]⟩
  obtain ⟨n, t, -, hrun, hidle, -⟩ := runFor_autoRun (s := resetTransient s₁) hsilent₁ rfl (Nat.lt_succ_self _)
  exact endsTogether_of_runFor hsilent₁ hsilent₂ (n := 1) (by rw [runFor_succ hstep₁, runFor_zero])
    (by rw [runFor_succ hstep₂, runFor_zero]) (by simp) (by simp) (endsTogether_of_sameLoop hloop hrun hidle)

/-! ### The split bits of RAW decide (R45) -/

theorem rawEccWord_congr {raw raw' : Nat → Bool} {i : Nat} (hraw : ∀ j, j < n * w.bits → raw j = raw' j) (hi : i < n) :
    rawEccWord w raw i = rawEccWord w raw' i := by
  have hend : i * w.bits + w.bits ≤ n * w.bits := by
    rw [← Nat.succ_mul]
    exact Nat.mul_le_mul_right _ hi
  rw [rawEccWord, rawEccWord, memRead, memRead, readBits_congr fun k hk => hraw (i * w.bits + k) (by omega)]

theorem rawAnswer_congr {lenw m : Nat} {raw raw' : Nat → Bool} (hraw : ∀ j, j < n * w.bits → raw j = raw' j) (hm : m ≤ n) :
    rawAnswer lenw w m n raw = rawAnswer lenw w m n raw' := by
  have hdata : (fun i : Fin m => rawEccWord w raw i.val) = fun i => rawEccWord w raw' i.val :=
    funext fun i => rawEccWord_congr hraw (i.isLt.trans_le hm)
  have hparity : (fun j : Fin (n - m) => rawEccWord w raw (m + j.val)) = fun j => rawEccWord w raw' (m + j.val) :=
    funext fun j => rawEccWord_congr hraw (by omega)
  rw [rawAnswer, rawAnswer, hdata, hparity]

theorem correctBits_congr {lenw m : Nat} {raw raw' : Nat → Bool} (hraw : ∀ j, j < n * w.bits → raw j = raw' j) (hm : m ≤ n) :
    correctBits lenw w m n raw = correctBits lenw w m n raw' := by
  have hsame := rawAnswer_congr (lenw := lenw) hraw hm
  cases hanswer : rawAnswer lenw w m n raw with
  | ok data count => rw [correctBits_of_ok hanswer, correctBits_of_ok (hsame.symm.trans hanswer)]
  | uncorrectable => rw [correctBits_of_uncorrectable hanswer, correctBits_of_uncorrectable (hsame.symm.trans hanswer)]

theorem decodeMarker_congr {p : Params} {d : Descriptor} {raw raw' : Nat → Bool}
    (hraw : ∀ i, i < d.capWords * d.wordBits.toNat → raw i = raw' i) : decodeMarker p d raw = decodeMarker p d raw' := by
  cases hv : firstViolation p d with
  | some c => rw [decodeMarker_of_violation raw hv, decodeMarker_of_violation raw' hv]
  | none =>
    obtain ⟨w, hpass⟩ := exists_passes hv
    have ⟨_, hw⟩ := hpass
    rw [hw] at hraw
    have hcor := correctBits_congr (lenw := p.lenw) hraw (msgWords_le_capWords hpass)
    simp only [decodeMarker, hv, hw, ofBits?_bits, hcor]

/-! ### Two decodes -/

/-- Two decodes of the same marker end together: at the checks, at the correction, or with the same symbol stream in stage 3. -/
theorem endsTogether_of_sameMarker (h₁ : s₁.startsDecode) (h₂ : s₂.startsDecode) (hparams : s₁.params = s₂.params)
    (hdesc : s₁.desc = s₂.desc) (hraw : ∀ i, i < s₁.desc.capWords * s₁.desc.wordBits.toNat → s₁.rawBit i = s₂.rawBit i) :
    s₁.endsTogether s₂ := by
  have ⟨hsilent₁, hq₁, _⟩ := h₁
  have ⟨hsilent₂, hq₂, _⟩ := h₂
  cases hv : firstViolation s₁.params s₁.desc with
  | some c =>
    exact endsTogether_of_step (by simp [hq₁]) (by simp [hq₂]) (step_violation h₁ hv)
      (step_violation h₂ (by rw [← hparams, ← hdesc, hv])) rfl rfl
  | none =>
    obtain ⟨w, hpass₁⟩ := exists_passes hv
    have hpass₂ : s₂.desc.passes s₂.params w := hparams ▸ hdesc ▸ hpass₁
    have ⟨_, hw⟩ := hpass₁
    rw [hw] at hraw
    have hcor₁₂ : s₁.corrected w = s₂.corrected w := by
      rw [State.corrected, State.corrected, ← hparams, ← hdesc]
      exact correctBits_congr hraw (msgWords_le_capWords hpass₁)
    cases hcor : s₁.corrected w with
    | none =>
      have hcor₂ := hcor₁₂.symm.trans hcor
      exact endsTogether_of_runFor hsilent₁ hsilent₂ (runFor_split h₁ hpass₁) (runFor_split h₂ hpass₂) (by simp) (by simp)
        (endsTogether_of_step (by simp) (by simp) (step_uncorrectable h₁ hpass₁ hcor) (step_uncorrectable h₂ hpass₂ hcor₂) rfl rfl)
    | some answer =>
      obtain ⟨cor, count⟩ := answer
      obtain ⟨u₁, hrun₁, hm₁, -, -, -, hdst₁⟩ := runFor_entersStageThree h₁ hpass₁ hcor
      obtain ⟨u₂, hrun₂, hm₂, -, -, -, hdst₂⟩ := runFor_entersStageThree h₂ hpass₂ (hcor₁₂.symm.trans hcor)
      rw [← hdesc] at hrun₂
      obtain ⟨hp₁, -⟩ := hostSideKept_of_runFor hsilent₁ hrun₁
      obtain ⟨hp₂, -⟩ := hostSideKept_of_runFor hsilent₂ hrun₂
      have hdst : u₁.dstBits = u₂.dstBits := Except.ok.inj (hdst₁.symm.trans hdst₂)
      exact endsTogether_of_runFor hsilent₁ hsilent₂ hrun₁ hrun₂ (by simp [hm₁]) (by simp [hm₂])
        (endsTogether_of_modeInit (hostSilent_of_runFor hsilent₁ hrun₁) (hostSilent_of_runFor hsilent₂ hrun₂) hm₁ hm₂
          (hp₁.trans (hparams.trans hp₂.symm)) hdst)

/-- A decode's end, at whatever step it is observed, is the one that `Decode` describes. -/
theorem decodeEndsAt_of_runFor (h : s.startsDecode) (hrun : runFor n s = .next t) (hidle : t.seq = .idle) : s.decodeEndsAt t := by
  have ⟨hsilent, _, _⟩ := h
  obtain ⟨k, u, -, hrun', hend⟩ := exists_decodeEndsAt h
  have ⟨hidle', _⟩ := hend
  rcases Nat.le_total n k with hle | hle
  · exact eq_of_runFor_idle hsilent hrun hidle hrun' hle ▸ hend
  · exact eq_of_runFor_idle hsilent hrun' hidle' hrun hle ▸ hend

/-- Settles O55: two decodes of the same marker end together, each end is that of `Decode`, and an idle block stays as it is. -/
theorem decodeDependsOnMarkerOnly : Obligations.DecodeDependsOnMarkerOnly := by
  intro s₁ s₂ hsilent₁ hsilent₂ hq₁ hq₂ hcoherent₁ hcoherent₂ hparams hdesc hraw
  have h₁ : s₁.startsDecode := ⟨hsilent₁, hq₁, hcoherent₁⟩
  have h₂ : s₂.startsDecode := ⟨hsilent₂, hq₂, hcoherent₂⟩
  obtain ⟨n, t₁, t₂, hrun₁, hrun₂, hidle₁, hidle₂, hbusy⟩ := endsTogether_of_sameMarker h₁ h₂ hparams hdesc hraw
  obtain ⟨-, -, -, hend₁⟩ := decodeEndsAt_of_runFor h₁ hrun₁ hidle₁
  obtain ⟨-, -, -, hend₂⟩ := decodeEndsAt_of_runFor h₂ hrun₂ hidle₂
  rw [← hparams, ← hdesc, ← decodeMarker_congr hraw] at hend₂
  exact ⟨n, t₁, t₂, _, hrun₁, hrun₂, hidle₁, hidle₂, hend₁, hend₂, hbusy⟩

end Sys2Proof.Machine
end

section
/-! SUPPORT. The entries of the DIGIT table (spec/47_mode_digit.md R190 to R196; O13). -/

namespace Sys2Proof.Machine

/-- The two forms of R192, `char('0' + (v - 2))` and `char(v + 46)`, agree. -/
theorem charDigit_eq_ofNat {v : BitVec 4} (hv : 2 ≤ v.toNat) : charDigit v = BitVec.ofNat 8 (48 + (v.toNat - 2)) := by
  have hsum : v.toNat + 46 = 48 + (v.toNat - 2) := by omega
  rw [← hsum]
  exact setWidth_add_ofNat v 46

/-- Settles O13: each entry's dispatch result is an append of one character, a latch or a shift, run as the symbol's meaning. -/
theorem digitEntriesComplete : Obligations.DigitEntriesComplete := by
  intro s
  refine ⟨?ps, ?sp, fun v hv _ => ?ch, ?com, ?dot, ?ul, ?us⟩
  case ps => exact exec_shift_done s rfl
  case sp => exact exec_append_done (c2 := none) s rfl
  case ch =>
    rw [← charDigit_eq_ofNat hv]
    exact exec_append_done (c2 := none) s rfl
  case com => exact exec_append_done (c2 := none) s rfl
  case dot => exact exec_append_done (c2 := none) s rfl
  case ul => exact exec_latch_done s rfl
  case us => exact exec_shift_done s rfl

end Sys2Proof.Machine
end

section
/-! SUPPORT. The driver's ends (spec/49_decode_driver.md R212, R213, R216; spec/60_exceptions.md R233, R247): START, the checks, the
successful end, the idle block, and the host's moves while the block is busy (O20, O30, O31, O32, O39, O42, O45). -/

namespace Sys2Proof.Machine

variable {s : State} {rest : List HostMove}

/-! ### The successful end (R121, R216) -/

theorem finish_msgChar {i : Nat} (hi : i < s.md.outLen) : (finish s).msgChar i = s.outChar i := by
  simp [State.msgChar, writeFrom_read, hi]

theorem finish_msg_read_above {i : Nat} (hi : s.md.outLen ≤ i) : (finish s).msg.read i = s.msg.read i := by
  rw [finish_msg, writeFrom_read, if_neg (by omega)]

/-- In the symbol loop a corrected buffer stands behind the text (R89, R216). -/
theorem corValid_of_inv (h : s.Inv) (hq : s.seq = .mode) : s.status.corValid = true := by
  rw [status_of_inv h (by simp [hq]), hq]
  rfl

/-- Settles O20: the loop's end is `finish`, whose writes to MSG stop at OUT's length. -/
theorem loopEndPublishesMessage : Obligations.LoopEndPublishesMessage := by
  intro s hwait hq hfew
  refine ⟨finish s.tick, step_loopEnd hwait hq hfew, ?_, fun i hi => ?_, fun i hi => ?_, fun hinv => ⟨?_, ?_, ?_⟩⟩
  · simp only [finish, tick_results, tick_status, tick_md, Status.success]
  · rw [finish_msgChar (by rwa [tick_md]), tick_outChar]
  · rw [finish_msg_read_above (by rwa [tick_md]), tick_msg]
  · rw [finish_status, tick_status, Status.success_corValid, corValid_of_inv hinv hq]
  · rw [finish_results, tick_md]
  · rw [finish_msgText, State.outText, tick_md, tick_outChar, State.outText]

/-! ### START (R14, R212, R273) -/

theorem step_writeCtrl {v : BitVec 1} (hdue : s.due = some (.writeReg (.ctrl v), rest)) :
    step s = .next (writeCtrl v { s with host := rest }) := by
  simp [step_of_due hdue, hostAccess, HostOp.needsIdle, writeReg]

/-- Settles O30: with `BUSY` and `FATAL` clear the write of 1 is the accepted START. -/
theorem startIsAccepted : Obligations.StartIsAccepted := by
  intro s rest hdue hbusy hfatal
  have haccepts : s.status.acceptsStart = true := by simp [Status.acceptsStart, hbusy, hfatal]
  rw [step_writeCtrl hdue, writeCtrl, if_pos ⟨rfl, haccepts⟩, acceptStart, Status.start]

/-- Settles O31: the write's condition fails, by the status or by the value. -/
theorem startIsIgnored : Obligations.StartIsIgnored := by
  refine ⟨fun s rest hdue hstatus => ?_, fun s rest hdue => ?_⟩
  · have hrefuses : ¬ s.status.acceptsStart = true := by
      rcases hstatus with hbusy | hfatal
      · simp [Status.acceptsStart, hbusy]
      · simp [Status.acceptsStart, hfatal]
    rw [step_writeCtrl hdue, writeCtrl, if_neg fun h => hrefuses h.2]
  · rw [step_writeCtrl hdue, writeCtrl, if_neg fun h => absurd h.1 (by decide)]

/-! ### The checks (R213) -/

theorem ofBits?_eq_none_iff {n : Nat} : EccWidth.ofBits? n = none ↔ n ∉ [6, 8, 10, 12] := by
  unfold EccWidth.ofBits?
  split_ifs <;> simp_all

/-- Settles O32: each branch of the checks raises its own fatal stop, and the last begins stage 1. -/
theorem checksInOrder : Obligations.ChecksInOrder := by
  intro s hwait hq d fatal
  rw [step_checks hwait hq, runChecks, tick_params, tick_desc, firstViolation]
  simp only [ofBits?_eq_none_iff]
  split_ifs <;> simp only [raiseFatal, Status.fatalStop, Status.atStage, tick_status, tick_params, tick_desc, fatal]

/-! ### Causes (R233) and the idle block (R247) -/

/-- Settles O39: the codes by evaluation, their bit 3 cause by cause. -/
theorem causeCodes : Obligations.CauseCodes := by
  refine ⟨rfl, rfl, rfl, rfl, rfl, rfl, rfl, rfl, rfl, rfl, fun c => ?_⟩
  cases c <;> decide

/-- Settles O42: an idle step of the block changes nothing after the tick, and the tick only the queue. -/
theorem idleBlockKeepsState : Obligations.IdleBlockKeepsState := by
  intro s hwait hq
  refine ⟨?_, tick_of_silent, fun n op rest hhost => ?_⟩
  · rw [step_of_waits hwait, blockStep_idle (by rw [tick_seq, hq])]
  · simp only [State.tick, hhost]

/-! ### A due move of a busy block (R52, R272) -/

theorem step_refused {op : HostOp} (hbusy : s.status.busy = true) (hneeds : op.needsIdle = true) (hdue : s.due = some (op, rest)) :
    step s = .refused .hostAccessWhileBusy := by
  simp [step_of_due hdue, hostAccess, hbusy, hneeds]

/-- The registers that may be read at any time (R11, R272, log 7). -/
theorem step_readReg_always {r : Reg} (hr : (HostOp.readReg r).needsIdle = false) (hdue : s.due = some (.readReg r, rest)) :
    step s = .next (hostTakes (regWord { s with host := rest } r) { s with host := rest }) := by
  simp [step_of_due hdue, hostAccess, hr]

/-- Settles O45: the listed moves need an idle block, and the reads of `STATUS` and `CTRL` do not. -/
theorem busyHostAccessIsRefused : Obligations.BusyHostAccessIsRefused := by
  intro s rest hbusy
  refine ⟨fun w hw hdue => ?write, fun i b => step_refused hbusy rfl, fun i hdue => ?buffer, fun r hstatus hctrl => ?register,
    step_readReg_always rfl, step_readReg_always rfl⟩
  case write =>
    refine step_refused hbusy ?_ hdue
    cases w with
    | ctrl v => exact absurd rfl (hw v)
    | _ => rfl
  case buffer =>
    rcases hdue with hdue | hdue | hdue <;> exact step_refused hbusy rfl hdue
  case register =>
    exact step_refused hbusy (decide_eq_true ⟨hstatus, hctrl⟩)

end Sys2Proof.Machine
end

section
/-! SUPPORT. Hardware reset (spec/70_reset_and_hazards.md R261): what it leaves, and that nothing else clears `FATAL` (O41). -/

namespace Sys2Proof.Machine

variable {s t : State}

theorem step_hardReset {rest : List HostMove} (hdue : s.due = some (.hardReset, rest)) :
    step s = .next (hardReset { s with host := rest }) := by
  simp [step_of_due hdue, hostAccess, HostOp.needsIdle]

/-! ### `FATAL` stays set -/

/-- Once `FATAL` is set it is still set. -/
def State.fatalKept (s t : State) : Prop := s.status.fatal = true → t.status.fatal = true

theorem fatalKept_of_status_eq (h : t.status = s.status) : s.fatalKept t := by
  rw [State.fatalKept, h]
  exact id

theorem fatalKept_raiseFatal (c : Cause) (s : State) : s.fatalKept (raiseFatal c s) := fun _ => rfl

theorem fatalKept_of_symbolDone {v : Nat} {m : Mode} {shifted : Bool} {cs : List Char8} (h : s.symbolDone t v m shifted cs) :
    s.fatalKept t := by
  obtain ⟨-, -, -, -, -, -, -, -, -, -, hstatus, -⟩ := h
  exact fatalKept_of_status_eq hstatus

theorem fatalKept_of_symbolFailed {c : Cause} (h : s.symbolFailed t c) : s.fatalKept t := by
  obtain ⟨-, -, -, -, hfatal, -⟩ := h
  exact fun hs => hfatal.trans hs

theorem exec_fatalKept {i : Instr} (h : exec i s = .next t) : s.fatalKept t := by
  rcases exec_cases h with ⟨_, _, -, hdone⟩ | ⟨_, -, hdone⟩ | ⟨_, -, hdone⟩ | ⟨_, -, hfailed⟩ | ⟨-, _, _, rfl⟩
  · exact fatalKept_of_symbolDone hdone
  · exact fatalKept_of_symbolDone hdone
  · exact fatalKept_of_symbolDone hdone
  · exact fatalKept_of_symbolFailed hfailed
  · exact id

theorem runChecks_fatalKept (s : State) : s.fatalKept (runChecks s) := by
  cases hv : firstViolation s.params s.desc with
  | some c => rw [runChecks_of_violation hv]; exact fatalKept_raiseFatal c s
  | none => rw [runChecks_of_pass hv]; exact id

theorem correctStage_fatalKept (w : EccWidth) (s : State) : s.fatalKept (correctStage w s) := by
  unfold correctStage
  cases rsAnswer w s <;> exact id

theorem stripCheck_fatalKept (w : EccWidth) (s : State) : s.fatalKept (stripCheck w s) := by
  unfold stripCheck
  split
  · exact fatalKept_raiseFatal _ s
  · exact id

theorem blockStep_fatalKept (h : blockStep s = .next t) : s.fatalKept t := by
  have hwidth := fatalKept_raiseFatal .badWordBits s
  rcases blockStep_cases h with ⟨-, rfl⟩ | ⟨-, rfl⟩ | ⟨-, rfl⟩ | ⟨-, rfl⟩ | ⟨-, rfl⟩ | ⟨-, rfl⟩ | ⟨-, -, rfl⟩ |
    ⟨w, -, -, -, hx⟩ | ⟨w, -, -, -, rfl⟩ | ⟨-, rfl⟩ | ⟨-, -, rfl⟩ | ⟨-, -, hx⟩
  · exact id
  · exact runChecks_fatalKept s
  · exact withWidth_of_forall hwidth fun _ => id
  · exact withWidth_of_forall hwidth fun w => correctStage_fatalKept w s
  · exact withWidth_of_forall hwidth fun _ => id
  · exact withWidth_of_forall hwidth fun w => stripCheck_fatalKept w s
  · exact hwidth
  · exact exec_fatalKept (s := fetchWord s) hx
  · exact id
  · exact id
  · exact id
  · exact exec_fatalKept (s := fetchSymbol s) hx

/-! ### Register writes -/

/-- The one register write that reaches the driver is the accepted START, which sets `BUSY` and leaves `FATAL` (R14, R212). -/
theorem writeReg_driver_cases (w : RegWrite) (s : State) :
    (w = .ctrl 1 ∧ writeReg w s = acceptStart s) ∨ ((writeReg w s).status = s.status ∧ (writeReg w s).seq = s.seq) := by
  cases w with
  | ctrl v =>
    rcases writeCtrl_cases v s with ⟨rfl, -, -, hx⟩ | hx
    · exact .inl ⟨rfl, hx⟩
    · exact .inr ⟨congrArg State.status hx, congrArg State.seq hx⟩
  | _ => exact .inr ⟨rfl, rfl⟩

theorem hostAccess_fatalKept {op : HostOp} (hop : op ≠ .hardReset) (h : hostAccess op s = .next t) : s.fatalKept t := by
  obtain ⟨-, hcases⟩ := hostAccess_cases h
  rcases hcases with ⟨w, -, rfl⟩ | ⟨i, b, -, -, rfl⟩ | ⟨v, rfl⟩ | ⟨hreset, -⟩
  · rcases writeReg_driver_cases w s with ⟨-, hx⟩ | ⟨hstatus, -⟩
    · rw [hx]; exact id
    · exact fatalKept_of_status_eq hstatus
  · exact id
  · exact id
  · exact absurd hreset hop

/-- An idle block leaves its place by no host move but START. -/
theorem hostAccess_starts {op : HostOp} (h : hostAccess op s = .next t) (hq : s.seq = .idle) (hleaves : t.seq ≠ .idle) :
    op = .writeReg (.ctrl 1) := by
  obtain ⟨-, hcases⟩ := hostAccess_cases h
  rcases hcases with ⟨w, rfl, rfl⟩ | ⟨i, b, -, -, rfl⟩ | ⟨v, rfl⟩ | ⟨-, rfl⟩
  · rcases writeReg_driver_cases w s with ⟨rfl, -⟩ | ⟨-, hseq⟩
    · rfl
    · exact absurd (hseq.trans hq) hleaves
  · exact absurd hq hleaves
  · exact absurd hq hleaves
  · exact absurd rfl hleaves

/-! ### The statement -/

/-- Settles O41: hardware reset by evaluation; every other move keeps `FATAL`, and no other move but START leaves the idle block. -/
theorem hardwareReset : Obligations.HardwareReset := by
  refine ⟨fun s rest hdue => ?reset, fun s t h hset hclear => ?clears, fun s t h hq hleaves => ?starts⟩
  case reset =>
    exact ⟨_, step_hardReset hdue, rfl, rfl, by simp only [hardReset]; decide, rfl, rfl, rfl, rfl, rfl,
      fun _ => ⟨rfl, rfl, rfl, rfl, rfl, rfl⟩, rfl⟩
  case clears =>
    have hnot : ¬ s.fatalKept t := fun hkept => by simp [hkept hset] at hclear
    rcases step_cases h with ⟨op, rest, hdue, hx⟩ | ⟨-, hx⟩
    · have hop : op = .hardReset := by
        by_contra hne
        exact hnot (hostAccess_fatalKept (s := { s with host := rest }) hne hx)
      exact ⟨rest, hop ▸ hdue⟩
    · have hkept := blockStep_fatalKept hx
      rw [State.fatalKept, tick_status] at hkept
      exact absurd hkept hnot
  case starts =>
    rcases step_cases h with ⟨op, rest, hdue, hx⟩ | ⟨-, hx⟩
    · exact ⟨rest, hostAccess_starts (s := { s with host := rest }) hx hq hleaves ▸ hdue⟩
    · have hq' : s.tick.seq = .idle := by rw [tick_seq, hq]
      rw [blockStep_idle hq'] at hx
      cases hx
      exact absurd hq' hleaves

end Sys2Proof.Machine
end

section
/-! SUPPORT. The trace sink (spec/60_exceptions.md R252, spec/70_reset_and_hazards.md R276): every operation of the block and every host
move answers the same with any sink (O60). -/

namespace Sys2Proof.Machine

/-- The state with another trace sink attached, or none (R252). -/
def State.withSink (s : State) (sink : Option (List TraceLine)) : State := { s with trace := sink }

/-- The second answer is the first, but for the trace of a next state. -/
def sameButTrace (r r' : StepResult) : Prop :=
  match r with
  | .next t => ∃ lines, r' = .next (t.withSink lines)
  | .fault f => r' = .fault f
  | .refused f => r' = .refused f

variable (s : State) (sink : Option (List TraceLine))

theorem sameButTrace_next {t t' : State} (h : t' = t.withSink sink) : sameButTrace (.next t) (.next t') := ⟨sink, by rw [h]⟩

/-! ### Code words -/

theorem runSymbol_sameButTrace (v : Nat) (a : Action) : sameButTrace (runSymbol v a s) (runSymbol v a (s.withSink sink)) := by
  cases a with
  | appendChars c1 c2 => cases c2 <;> exact ⟨_, rfl⟩
  | latch m => exact ⟨_, rfl⟩
  | shift m => exact ⟨_, rfl⟩
  | failSym c => exact ⟨_, rfl⟩

theorem exec_sameButTrace (i : Instr) : sameButTrace (exec i s) (exec i (s.withSink sink)) := by
  cases h : symbolAction i with
  | some a =>
    rw [exec_symbol s h, exec_symbol _ h]
    exact runSymbol_sameButTrace s sink _ a
  | none => cases i <;> cases h <;> exact ⟨sink, rfl⟩

/-! ### The block -/

theorem runChecks_withSink : runChecks (s.withSink sink) = (runChecks s).withSink sink := by
  cases hv : firstViolation s.params s.desc with
  | some c => rw [runChecks_of_violation hv, runChecks_of_violation (s := s.withSink sink) hv]; rfl
  | none => rw [runChecks_of_pass hv, runChecks_of_pass (s := s.withSink sink) hv]; rfl

theorem withWidth_withSink {f : EccWidth → State → State} (hf : ∀ w, f w (s.withSink sink) = (f w s).withSink sink) :
    withWidth f (s.withSink sink) = (withWidth f s).withSink sink := by
  cases hw : EccWidth.ofBits? s.desc.wordBits.toNat with
  | some w => rw [withWidth_of_some hw, withWidth_of_some (s := s.withSink sink) hw, hf]
  | none => rw [withWidth_of_none hw, withWidth_of_none (s := s.withSink sink) hw]; rfl

theorem correctStage_withSink (w : EccWidth) : correctStage w (s.withSink sink) = (correctStage w s).withSink sink := by
  change takeAnswer (rsAnswer w s) (s.withSink sink) = (takeAnswer (rsAnswer w s) s).withSink sink
  cases rsAnswer w s <;> rfl

theorem stripCheck_withSink (w : EccWidth) : stripCheck w (s.withSink sink) = (stripCheck w s).withSink sink := by
  by_cases h : s.results.corLen % w.bits = 0
  · rw [stripCheck_of_whole h, stripCheck_of_whole (s := s.withSink sink) h]; rfl
  · rw [stripCheck_of_partial h, stripCheck_of_partial (s := s.withSink sink) h]; rfl

/-- A width outside R61's is fatal in the stripper's loop too (R70). -/
theorem stripStep_illegal {s : State} (hw : EccWidth.ofBits? s.desc.wordBits.toNat = none) :
    stripStep s = .next (raiseFatal .badWordBits s) := by
  simp only [stripStep, hw]

theorem stripStep_sameButTrace : sameButTrace (stripStep s) (stripStep (s.withSink sink)) := by
  cases hw : EccWidth.ofBits? s.desc.wordBits.toNat with
  | none =>
    rw [stripStep_illegal hw, stripStep_illegal (s := s.withSink sink) hw]
    exact ⟨sink, rfl⟩
  | some w =>
    by_cases hk : s.stripPos < s.wordsIn w
    · rw [stripStep_word hw hk, stripStep_word (s := s.withSink sink) hw hk]
      exact exec_sameButTrace (fetchWord s) sink _
    · rw [stripStep_end hw hk, stripStep_end (s := s.withSink sink) hw hk]
      exact ⟨sink, rfl⟩

theorem modeStep_sameButTrace : sameButTrace (modeStep s) (modeStep (s.withSink sink)) := by
  by_cases hfew : s.bitsLeft < symWidth s.params.byteWidth s.md.mode
  · rw [modeStep_end hfew, modeStep_end (s := s.withSink sink) hfew]
    exact ⟨sink, rfl⟩
  · have hwhole := Nat.le_of_not_lt hfew
    rw [modeStep_symbol hwhole, modeStep_symbol (s := s.withSink sink) hwhole]
    exact exec_sameButTrace (fetchSymbol s) sink _

theorem blockStep_sameButTrace : sameButTrace (blockStep s) (blockStep (s.withSink sink)) := by
  cases hq : s.seq with
  | idle =>
    rw [blockStep_idle hq, blockStep_idle (s := s.withSink sink) hq]
    exact ⟨sink, rfl⟩
  | checks =>
    rw [blockStep_checks hq, blockStep_checks (s := s.withSink sink) hq]
    exact sameButTrace_next sink (runChecks_withSink s sink)
  | split =>
    rw [blockStep_split hq, blockStep_split (s := s.withSink sink) hq]
    exact sameButTrace_next sink (withWidth_withSink s sink fun _ => rfl)
  | correct =>
    rw [blockStep_correct hq, blockStep_correct (s := s.withSink sink) hq]
    exact sameButTrace_next sink (withWidth_withSink s sink fun w => correctStage_withSink s sink w)
  | repack =>
    rw [blockStep_repack hq, blockStep_repack (s := s.withSink sink) hq]
    exact sameButTrace_next sink (withWidth_withSink s sink fun _ => rfl)
  | stripCheck =>
    rw [blockStep_stripCheck hq, blockStep_stripCheck (s := s.withSink sink) hq]
    exact sameButTrace_next sink (withWidth_withSink s sink fun w => stripCheck_withSink s sink w)
  | strip =>
    rw [blockStep_strip hq, blockStep_strip (s := s.withSink sink) hq]
    exact stripStep_sameButTrace s sink
  | modeInit =>
    rw [blockStep_modeInit hq, blockStep_modeInit (s := s.withSink sink) hq]
    exact ⟨sink, rfl⟩
  | mode =>
    rw [blockStep_mode hq, blockStep_mode (s := s.withSink sink) hq]
    exact modeStep_sameButTrace s sink

/-! ### The host -/

theorem writeReg_withSink (w : RegWrite) : writeReg w (s.withSink sink) = (writeReg w s).withSink sink := by
  cases w with
  | ctrl v =>
    exact (apply_ite (State.withSink · sink) (v = 1 ∧ s.status.acceptsStart = true) (acceptStart s) s).symm
  | _ => rfl

theorem ifElement_sameButTrace (present : Bool) : sameButTrace (ifElement present s) (ifElement present (s.withSink sink)) := by
  cases present with
  | true => exact ⟨sink, rfl⟩
  | false => rfl

theorem hostAccess_sameButTrace (op : HostOp) : sameButTrace (hostAccess op s) (hostAccess op (s.withSink sink)) := by
  by_cases hrefused : (s.status.busy && op.needsIdle) = true
  · unfold hostAccess
    rw [if_pos hrefused, if_pos (show ((s.withSink sink).status.busy && op.needsIdle) = true from hrefused)]
    rfl
  · unfold hostAccess
    rw [if_neg hrefused, if_neg (show ¬ ((s.withSink sink).status.busy && op.needsIdle) = true from hrefused)]
    cases op with
    | writeReg w => exact sameButTrace_next sink (writeReg_withSink s sink w)
    | readReg r => cases r <;> exact ⟨sink, rfl⟩
    | writeRawByte i b => exact ifElement_sameButTrace { s with raw := memWrite s.raw (8 * i) 8 b.toNat } sink _
    | readRawByte i => exact ifElement_sameButTrace (hostTakes (memRead s.rawBit (8 * i) 8) s) sink _
    | readCorByte i => exact ifElement_sameButTrace (hostTakes (memRead s.corBit (8 * i) 8) s) sink _
    | readMsg i => exact ifElement_sameButTrace (hostTakes (s.msgChar i).toNat s) sink _
    | hardReset => exact ⟨sink, rfl⟩

theorem tick_withSink : (s.withSink sink).tick = s.tick.withSink sink := by
  simp only [State.tick, State.withSink]
  split <;> rfl

theorem step_sameButTrace : sameButTrace (step s) (step (s.withSink sink)) := by
  cases hdue : s.due with
  | none =>
    rw [step_of_waits hdue, step_of_waits (s := s.withSink sink) hdue, tick_withSink]
    exact blockStep_sameButTrace s.tick sink
  | some move =>
    obtain ⟨op, rest⟩ := move
    rw [step_of_due hdue, step_of_due (s := s.withSink sink) hdue]
    exact hostAccess_sameButTrace { s with host := rest } sink op

/-- Settles O60: a step is a host move or a step of the block, and no operation of either reads the trace. -/
theorem traceNeverAltersTheDecode : Obligations.TraceNeverAltersTheDecode := by
  intro s sink
  exact step_sameButTrace s sink

end Sys2Proof.Machine
end
